-- ==== Sys2Proof/Word.lean ====
section
/-! DEFINITION. The bit vectors of the ModuleConfigurator CAN block (00_scope.md R8, 30_encoding.md R57, R61). -/

namespace Sys2Proof

/-- A payload byte (R8). -/
abbrev Byte := BitVec 8

/-- A step word: one step of one agent (30_encoding.md R61). -/
abbrev StepWord := BitVec 128

/-- A 96-bit buffer element or channel entry (30_encoding.md R57, R58). -/
abbrev Elem := BitVec 96

/-- An 11-bit frame identifier (10_state.md R10, 00_scope.md R7). -/
abbrev CanId := BitVec 11

/-- The 4-bit hardware length code (40_frame_codec.md R76). -/
abbrev Dlc := BitVec 4

/-- A callback name: a 32-bit opaque value, 0 meaning none (10_state.md R25). -/
abbrev Handler := BitVec 32

/-- A mask over the six interrupt reasons (30_encoding.md R56). -/
abbrev Reasons := BitVec 6

/-- The `inst` field of a step word (30_encoding.md R61). -/
abbrev InstId := BitVec 4

/-- The `op` field of a step word (30_encoding.md R61). -/
abbrev OpCode := BitVec 4

end Sys2Proof
end

