-- ==== Sys2Proof/Syntax.lean ====
section
/-! DEFINITION. The step words of 30_encoding.md R70 as one inductive, one constructor per row of spec/opcode_table.json.
A constructor's arguments are the variable fields of its format (R62 to R69) at their encoded widths, since fields wider
than their value sets carry the out-of-range arguments the rules answer (R61, R71). -/

namespace Sys2Proof

/-- One step word, decoded (30_encoding.md R70). -/
inductive Instr where
  /-- INIT, format I (R63); semantics 43_controller.md R106. -/
  | init (inst : InstId) (prescaler ts1 ts2 sjw : BitVec 16) (defaultAction : BitVec 8) (requested : Reasons)
  /-- ADD_FILTER, format F (R64); semantics 42_filter.md R101. -/
  | addFilter (inst : InstId) (kind action : BitVec 8) (id1 id2 : BitVec 16)
  /-- START, format Z (R62); semantics 43_controller.md R107. -/
  | start (inst : InstId)
  /-- SEND, format S (R65); semantics 44_datapath.md R113. -/
  | send (inst : InstId) (id : BitVec 16) (length : BitVec 8) (data : BitVec 64)
  /-- STOP, format Z (R62); semantics 43_controller.md R108. -/
  | stop (inst : InstId)
  /-- REG_RX_CB, format C (R66); semantics 43_controller.md R109. -/
  | regRxCb (inst : InstId) (queueId : BitVec 8) (handler : Handler)
  /-- REG_ERR_CB, format C with queue_id 0 (R66); semantics 43_controller.md R110. -/
  | regErrCb (inst : InstId) (handler : Handler)
  /-- REG_HP_CB, format C with queue_id 0 (R66); semantics 43_controller.md R111. -/
  | regHpCb (inst : InstId) (handler : Handler)
  /-- POLL_RX, format P (R67); semantics 44_datapath.md R118. -/
  | pollRx (inst : InstId) (queueId : BitVec 8) (timeout : BitVec 32)
  /-- BUS_RX, format B (R68); semantics 44_datapath.md R115. -/
  | busRx (inst : InstId) (id : BitVec 16) (dlc : BitVec 8) (data : BitVec 64) (rtr : BitVec 1)
  /-- TX_XMIT, format Z (R62); semantics 44_datapath.md R114. -/
  | txXmit (inst : InstId)
  /-- IRQ_DISPATCH, format Q (R69); semantics 60_exceptions.md R139. -/
  | irqDispatch (inst : InstId) (reasons : Reasons)
  /-- BUS_STATUS, format Q (R69); semantics 60_exceptions.md R138. -/
  | busStatus (inst : InstId) (reasons : Reasons)
  /-- TICK, format Z with inst 0 (R70); semantics 44_datapath.md R120. -/
  | tick
  /-- CHAN_DEQ, format Z (R62); semantics 45_channel.md R125. -/
  | chanDeq (inst : InstId)
  deriving DecidableEq, Repr

namespace Instr

/-- The `op` field of a step (30_encoding.md R70). -/
def opcode : Instr → OpCode
  | .init ..        => 0x1
  | .addFilter ..   => 0x2
  | .start ..       => 0x3
  | .send ..        => 0x4
  | .stop ..        => 0x5
  | .regRxCb ..     => 0x6
  | .regErrCb ..    => 0x7
  | .regHpCb ..     => 0x8
  | .pollRx ..      => 0x9
  | .busRx ..       => 0xA
  | .txXmit ..      => 0xB
  | .irqDispatch .. => 0xC
  | .busStatus ..   => 0xD
  | .tick           => 0xE
  | .chanDeq ..     => 0xF

/-- The one instance a step names; `none` for TICK, which acts on every instance (60_exceptions.md R144). -/
def inst? : Instr → Option InstId
  | .init inst .. | .addFilter inst .. | .start inst | .send inst .. | .stop inst | .regRxCb inst ..
  | .regErrCb inst .. | .regHpCb inst .. | .pollRx inst .. | .busRx inst .. | .txXmit inst
  | .irqDispatch inst .. | .busStatus inst .. | .chanDeq inst => some inst
  | .tick => none

/-- The ten host commands; the other five steps are events (30_encoding.md R70, R71). -/
def isHostCommand : Instr → Bool
  | .init .. | .addFilter .. | .start .. | .send .. | .stop .. | .regRxCb .. | .regErrCb .. | .regHpCb ..
  | .pollRx .. | .chanDeq .. => true
  | .busRx .. | .txXmit .. | .irqDispatch .. | .busStatus .. | .tick => false

/-- UNREG_RX_CB, an abbreviation (30_encoding.md R73). -/
def unregRxCb (inst : InstId) (queueId : BitVec 8) : Instr := .regRxCb inst queueId 0

/-- UNREG_ERR_CB, an abbreviation (30_encoding.md R73). -/
def unregErrCb (inst : InstId) : Instr := .regErrCb inst 0

/-- UNREG_HP_CB, an abbreviation (30_encoding.md R73). -/
def unregHpCb (inst : InstId) : Instr := .regHpCb inst 0

/-- POLL_RX_ONCE, an abbreviation (30_encoding.md R73). -/
def pollRxOnce (inst : InstId) (queueId : BitVec 8) : Instr := .pollRx inst queueId 0

end Instr

end Sys2Proof
end

