-- ==== Sys2Proof/WellFormed.lean ====
section
/-! DEFINITION. The format constraints an event's operands must meet to be a step at all (30_encoding.md R68, R69, R71 (d)).
A host command has none: its out-of-range operands get a status (R71 (e)). -/

namespace Sys2Proof

/-- BUS_RX: `id ≤ 0x7FF` and `dlc ≤ 15` (30_encoding.md R68). -/
def busRxFormat (id : BitVec 16) (dlc : BitVec 8) : Bool :=
  decide (id.toNat ≤ 0x7FF) && decide (dlc.toNat ≤ 15)

/-- BUS_STATUS: only bits 3 to 5 may be set and at least one must be (30_encoding.md R69). -/
def busStatusFormat (reasons : Reasons) : Bool :=
  decide (reasons &&& 0x07 = 0) && decide (reasons ≠ 0)

/-- The constraints of a step's format (30_encoding.md R71 (d)). -/
def Instr.wellFormed : Instr → Bool
  | .busRx _ id dlc _ _ => busRxFormat id dlc
  | .busStatus _ reasons => busStatusFormat reasons
  | .init .. | .addFilter .. | .start .. | .send .. | .stop .. | .regRxCb .. | .regErrCb .. | .regHpCb ..
  | .pollRx .. | .txXmit .. | .irqDispatch .. | .tick | .chanDeq .. => true

/-- A well-formed step. -/
abbrev WellFormed (i : Instr) : Prop := i.wellFormed = true

end Sys2Proof
end

