-- ==== Sys2Proof/Decode.lean ====
section
/-! DEFINITION. The decoder of a 128-bit step word and the encoder, from the formats of 30_encoding.md R61 to R70,
and the textual form of R73. -/

namespace Sys2Proof

/-- Why a word decodes to no instruction (30_encoding.md R71). -/
inductive DecodeError where
  /-- `op = 0x0`: treated as a host command (R71 (a), (c)). -/
  | illegal (inst : InstId)
  /-- A host command with a must-be-0 bit set (R71 (b), (c)). -/
  | malformed (op : OpCode) (inst : InstId)
  /-- An event with a must-be-0 bit set: not a step (R71 (d)). -/
  | notAStep
  deriving DecidableEq, Repr

/-- `w[127:124]` (R61). -/
def opField (w : StepWord) : OpCode := w.extractLsb' 124 4

/-- `w[123:120]` (R61). -/
def instField (w : StepWord) : InstId := w.extractLsb' 120 4

/-- The bits of each row's word that are fixed: the op field and the must-be-0 bits of the format
(R62 to R69; TICK's inst field too, R70). Op 0x0 has no format. -/
def fixedMask (op : OpCode) : StepWord :=
  match op.toNat with
  | 0x0 => 0xF0000000000000000000000000000000
  | 0x1 => 0xF0000000000000000000C0FFFFFFFFFF
  | 0x2 => 0xF0000000000000FFFFFFFFFFFFFFFFFF
  | 0x3 => 0xF0FFFFFFFFFFFFFFFFFFFFFFFFFFFFFF
  | 0x4 => 0xF00000000000000000000000FFFFFFFF
  | 0x5 => 0xF0FFFFFFFFFFFFFFFFFFFFFFFFFFFFFF
  | 0x6 => 0xF00000000000FFFFFFFFFFFFFFFFFFFF
  | 0x7 => 0xF0FF00000000FFFFFFFFFFFFFFFFFFFF
  | 0x8 => 0xF0FF00000000FFFFFFFFFFFFFFFFFFFF
  | 0x9 => 0xF00000000000FFFFFFFFFFFFFFFFFFFF
  | 0xA => 0xF00000000000000000000000FEFFFFFF
  | 0xB => 0xF0FFFFFFFFFFFFFFFFFFFFFFFFFFFFFF
  | 0xC => 0xF0C0FFFFFFFFFFFFFFFFFFFFFFFFFFFF
  | 0xD => 0xF0C7FFFFFFFFFFFFFFFFFFFFFFFFFFFF
  | 0xE => 0xFFFFFFFFFFFFFFFFFFFFFFFFFFFFFFFF
  | _   => 0xF0FFFFFFFFFFFFFFFFFFFFFFFFFFFFFF

/-- Every fixed bit of the word has its value: the op field in place and every must-be-0 bit 0 (R71 (b)). -/
def fixedBitsRight (w : StepWord) : Bool :=
  decide (w &&& fixedMask (opField w) = opField w ++ (0 : BitVec 124))

/-- Is the op field a host command's? Op 0x0 counts as one (R71 (c)). -/
def isHostOp (op : OpCode) : Bool := decide (op.toNat ≤ 0x9) || decide (op.toNat = 0xF)

/-- The fields of a word whose fixed bits are right, by its op (R63 to R70). -/
def decodeFields (w : StepWord) : Except DecodeError Instr :=
  let inst := instField w
  match (opField w).toNat with
  | 0x0 => .error (.illegal inst)
  | 0x1 => .ok (.init inst (w.extractLsb' 104 16) (w.extractLsb' 88 16) (w.extractLsb' 72 16) (w.extractLsb' 56 16)
      (w.extractLsb' 48 8) (w.extractLsb' 40 6))
  | 0x2 => .ok (.addFilter inst (w.extractLsb' 112 8) (w.extractLsb' 104 8) (w.extractLsb' 88 16) (w.extractLsb' 72 16))
  | 0x3 => .ok (.start inst)
  | 0x4 => .ok (.send inst (w.extractLsb' 104 16) (w.extractLsb' 96 8) (w.extractLsb' 32 64))
  | 0x5 => .ok (.stop inst)
  | 0x6 => .ok (.regRxCb inst (w.extractLsb' 112 8) (w.extractLsb' 80 32))
  | 0x7 => .ok (.regErrCb inst (w.extractLsb' 80 32))
  | 0x8 => .ok (.regHpCb inst (w.extractLsb' 80 32))
  | 0x9 => .ok (.pollRx inst (w.extractLsb' 112 8) (w.extractLsb' 80 32))
  | 0xA => .ok (.busRx inst (w.extractLsb' 104 16) (w.extractLsb' 96 8) (w.extractLsb' 32 64) (w.extractLsb' 24 1))
  | 0xB => .ok (.txXmit inst)
  | 0xC => .ok (.irqDispatch inst (w.extractLsb' 112 6))
  | 0xD => .ok (.busStatus inst (w.extractLsb' 112 6))
  | 0xE => .ok .tick
  | _   => .ok (.chanDeq inst)

/-- The instruction a step word stands for, or the name of what is wrong with it (R70, R71). -/
def decode (w : StepWord) : Except DecodeError Instr :=
  if opField w = 0 then .error (.illegal (instField w))
  else if fixedBitsRight w then decodeFields w
  else if isHostOp (opField w) then .error (.malformed (opField w) (instField w))
  else .error .notAStep

/-- The step word of an instruction: op, inst and the fields of its format, the must-be-0 bits 0 (R62 to R70). -/
def encode : Instr → StepWord
  | .init inst prescaler ts1 ts2 sjw defaultAction requested =>
      0x1#4 ++ inst ++ prescaler ++ ts1 ++ ts2 ++ sjw ++ defaultAction ++ 0#2 ++ requested ++ 0#40
  | .addFilter inst kind action id1 id2 => 0x2#4 ++ inst ++ kind ++ action ++ id1 ++ id2 ++ 0#72
  | .start inst => 0x3#4 ++ inst ++ 0#120
  | .send inst id length data => 0x4#4 ++ inst ++ id ++ length ++ data ++ 0#32
  | .stop inst => 0x5#4 ++ inst ++ 0#120
  | .regRxCb inst queueId handler => 0x6#4 ++ inst ++ queueId ++ handler ++ 0#80
  | .regErrCb inst handler => 0x7#4 ++ inst ++ 0#8 ++ handler ++ 0#80
  | .regHpCb inst handler => 0x8#4 ++ inst ++ 0#8 ++ handler ++ 0#80
  | .pollRx inst queueId timeout => 0x9#4 ++ inst ++ queueId ++ timeout ++ 0#80
  | .busRx inst id dlc data rtr => 0xA#4 ++ inst ++ id ++ dlc ++ data ++ 0#7 ++ rtr ++ 0#24
  | .txXmit inst => 0xB#4 ++ inst ++ 0#120
  | .irqDispatch inst reasons => 0xC#4 ++ inst ++ 0#2 ++ reasons ++ 0#112
  | .busStatus inst reasons => 0xD#4 ++ inst ++ 0#2 ++ reasons ++ 0#112
  | .tick => 0xE#4 ++ 0#124
  | .chanDeq inst => 0xF#4 ++ inst ++ 0#120

/-- The instruction read from a table word: bit 0 least significant, every bit from `nbits` on 0. -/
def decodeTableWord (nbits w : Nat) : Option Instr :=
  match decode (BitVec.ofNat 128 (w % 2 ^ nbits)) with
  | .ok i => some i
  | .error _ => none

/-- The mnemonic of R70. -/
def Instr.mnemonic : Instr → String
  | .init ..        => "INIT"
  | .addFilter ..   => "ADD_FILTER"
  | .start ..       => "START"
  | .send ..        => "SEND"
  | .stop ..        => "STOP"
  | .regRxCb ..     => "REG_RX_CB"
  | .regErrCb ..    => "REG_ERR_CB"
  | .regHpCb ..     => "REG_HP_CB"
  | .pollRx ..      => "POLL_RX"
  | .busRx ..       => "BUS_RX"
  | .txXmit ..      => "TX_XMIT"
  | .irqDispatch .. => "IRQ_DISPATCH"
  | .busStatus ..   => "BUS_STATUS"
  | .tick           => "TICK"
  | .chanDeq ..     => "CHAN_DEQ"

/-- The byte list of a 64-bit data field in the text of R73, all eight bytes written. -/
def bytesText (data : BitVec 64) : String :=
  "[" ++ " ".intercalate ((List.range 8).map fun k => toString (data.extractLsb' (8 * k) 8).toNat) ++ "]"

/-- The operands of a step in R73's order, in decimal. -/
def Instr.operands : Instr → List String
  | .init inst prescaler ts1 ts2 sjw defaultAction requested =>
      [inst.toNat, prescaler.toNat, ts1.toNat, ts2.toNat, sjw.toNat, defaultAction.toNat, requested.toNat].map toString
  | .addFilter inst kind action id1 id2 => [inst.toNat, kind.toNat, action.toNat, id1.toNat, id2.toNat].map toString
  | .start inst | .stop inst | .txXmit inst | .chanDeq inst => [toString inst.toNat]
  | .send inst id length data => [toString inst.toNat, toString id.toNat, toString length.toNat, bytesText data]
  | .regRxCb inst queueId handler => [inst.toNat, queueId.toNat, handler.toNat].map toString
  | .regErrCb inst handler | .regHpCb inst handler => [inst.toNat, handler.toNat].map toString
  | .pollRx inst queueId timeout => [inst.toNat, queueId.toNat, timeout.toNat].map toString
  | .busRx inst id dlc data rtr =>
      [toString inst.toNat, toString id.toNat, toString dlc.toNat, bytesText data, toString rtr.toNat]
  | .irqDispatch inst reasons | .busStatus inst reasons => [inst.toNat, reasons.toNat].map toString
  | .tick => []

/-- `MNEMONIC inst, operand, ...` (30_encoding.md R73). -/
def Instr.text (i : Instr) : String :=
  match i.operands with
  | [] => i.mnemonic
  | ops => i.mnemonic ++ " " ++ ", ".intercalate ops

end Sys2Proof
end

