-- ==== Sys2Proof/Config.lean ====
section
/-! DEFINITION. What an implementation fixes: the parameters of 00_scope.md R6, and the one free value. -/

namespace Sys2Proof

/-- Which queued element the transmit engine takes (R6 `TX_ORDER`, 20_memory.md R45). -/
inductive TxOrder where
  | fifo
  | any
  deriving DecidableEq, Repr

/-- What a full channel does with a new frame (R6 `CHAN_POLICY`, 45_channel.md R124). -/
inductive ChanPolicy where
  | dropNewest
  | dropOldest
  deriving DecidableEq, Repr

/-- The four blocks of one dispatcher call that `DISPATCH_ORDER` orders (R6, 60_exceptions.md R139). -/
inductive ReasonClass where
  | rxq0
  | rxq1
  | err
  | hp
  deriving DecidableEq, Repr

/-- When INIT writes `bt`, on which the spec disagrees with itself (log 23). -/
inductive BtWrite where
  /-- once the tuple is legal, before the default action is tested (43_controller.md R106, pseudocode; 95_test_vectors.md section 6) -/
  | beforeAction
  /-- only when INIT succeeds (10_state.md R15, 93 U9) -/
  | onSuccess
  deriving DecidableEq, Repr

/-- The parameters of R6 that some rule reads, and `btWrite`, which is the MODEL's own (DESIGN CHOICE, log 23).
`NUM_INSTANCES` is the length of `State.ctrls`; `CLOCK_HZ` is an argument of the bit-timing functions;
`TICK_PERIOD` is read by no rule (DEDUCED, log 2, log 19). -/
structure Params where
  filterCapacity : Nat
  chanCapacity   : Nat
  rxqDepth       : Nat
  txqDepth       : Nat
  txOrder        : TxOrder
  loopback       : List Bool      -- entry i is LOOPBACK[i]; absent entries are false
  prescMax       : Nat
  ts1Max         : Nat
  ts2Max         : Nat
  sjwMax         : Nat
  chanPolicy     : ChanPolicy
  countDrops     : Bool
  dispatchOrder  : List ReasonClass
  btWrite        : BtWrite
  deriving DecidableEq, Repr

/-- The defaults of R6 (the four timing maxima PRESUMED in the spec itself, log 16; `btWrite` as R106 has it, log 23). -/
def Params.defaults : Params where
  filterCapacity := 28
  chanCapacity   := 10
  rxqDepth       := 3
  txqDepth       := 3
  txOrder        := .fifo
  loopback       := [false, false]
  prescMax       := 512
  ts1Max         := 256
  ts2Max         := 128
  sjwMax         := 128
  chanPolicy     := .dropNewest
  countDrops     := false
  dispatchOrder  := [.rxq0, .rxq1, .err, .hp]
  btWrite        := .beforeAction

/-- FREE VALUE (log 4): with `TX_ORDER = any` the position of the element the transmit engine of an instance removes, for the
instance's number and its n-th draw. It has no body: nothing constrains it (20_memory.md R45, 93 U12). -/
opaque Config.txPick : Nat → Nat → Nat

end Sys2Proof
end

