-- ==== Sys2Proof/Machine/State.lean ====
section
/-! DEFINITION. The state of the block (10_state.md), its reset (R35), and the reasons a step can stop. -/

namespace Sys2Proof.Machine

/-- The lifecycle state (R13, 30_encoding.md R51). -/
inductive CState where
  | uninitialized
  | configured
  | running
  deriving DecidableEq, Repr

/-- Status codes a command answers (30_encoding.md R55). -/
inductive Status where
  | ok
  | error
  | busy
  | timeout
  | notInitialized
  | notStarted
  | alreadyInitialized
  | invalidArgument
  deriving DecidableEq, Repr

/-- The two hardware receive queues of an instance (20_memory.md R36). -/
inductive QueueId where
  | q0
  | q1
  deriving DecidableEq, Repr

/-- Filter kinds (30_encoding.md R52). -/
inductive FilterKind where
  | range
  | dualId
  | mask
  deriving DecidableEq, Repr

/-- Filter actions (30_encoding.md R53). -/
inductive FilterAction where
  | toQ0
  | toQ1
  | reject
  | toQ0Hp
  | toQ1Hp
  deriving DecidableEq, Repr

/-- What happens to a frame no rule matches (30_encoding.md R54). -/
inductive DefaultAction where
  | acceptQ0
  | acceptQ1
  | rejectAll
  deriving DecidableEq, Repr

/-- A Frame (R10): `data` is the list of exactly `len` payload bytes. -/
structure Frame where
  id   : CanId
  len  : Nat
  data : List Byte
  deriving DecidableEq, Repr

/-- The four 16-bit bit-timing registers (R15). -/
structure BtRegs where
  prescaler : BitVec 16
  ts1       : BitVec 16
  ts2       : BitVec 16
  sjw       : BitVec 16
  deriving DecidableEq, Repr

/-- One acceptance rule (R23). -/
structure FilterRule where
  kind   : FilterKind
  action : FilterAction
  id1    : CanId
  id2    : CanId
  deriving DecidableEq, Repr

/-- The high-priority status descriptor (R20). -/
structure HpStatus where
  valid  : Bool
  slot   : Nat
  queue  : QueueId
  stored : Bool
  deriving DecidableEq, Repr

/-- A held `poll_receive` (R30). -/
structure Poll where
  queue     : QueueId
  remaining : Nat
  deriving DecidableEq, Repr

/-- Observable output events (R32). -/
inductive Event where
  /-- a command's response -/
  | resp (op : OpCode) (status : Status)
  /-- the receive callback `h` of queue `q` ran with `frame` -/
  | rxCb (q : QueueId) (h : Handler) (frame : Frame)
  /-- the error callback ran with the raw mask -/
  | errCb (h : Handler) (reasons : Reasons)
  /-- the high-priority callback ran with the descriptor -/
  | hpCb (h : Handler) (desc : HpStatus)
  /-- a frame left towards the bus -/
  | busTx (id : CanId) (dlc : Dlc) (data : List Byte)
  /-- the consumer received `frame` -/
  | deq (frame : Frame)
  /-- a held `poll_receive` returned -/
  | pollDone (status : Status)
  deriving DecidableEq, Repr

/-- One entry of the output trace: the event, and the `inst` field it belongs to (R32; DESIGN CHOICE, log 7). -/
structure TraceEntry where
  inst  : InstId
  event : Event
  deriving DecidableEq, Repr

/-- What may be taken next (DESIGN CHOICE, log 1): a step given by its word, or one of the two internal steps that have none. -/
inductive Slot where
  /-- a host command or an event, as its step word (30_encoding.md R61) -/
  | word (w : StepWord)
  /-- the completion of a held poll by arrival (44_datapath.md R119) -/
  | pollDone (inst : InstId)
  /-- the held CHAN_DEQ of the RxTask goes on (45_channel.md R125; DESIGN CHOICE, log 8) -/
  | deqResume (inst : InstId)
  deriving DecidableEq, Repr

/-- The state of one controller instance (R12 to R30). -/
structure Controller where
  cstate        : CState                     -- R13
  bt            : Option BtRegs              -- R15
  defaultAction : Option DefaultAction       -- R16
  irqEnable     : Reasons                    -- R17
  irqPending    : Reasons                    -- R18; read through `latched`
  hpStatus      : HpStatus                   -- R20
  rxLost0       : Bool                       -- R21
  rxLost1       : Bool                       -- R21
  filters       : List (Option FilterRule)   -- R23, one entry per slot
  nextSlot      : Nat                        -- R24
  cbRx0         : Option Handler             -- R25
  cbRx1         : Option Handler             -- R25
  cbErr         : Option Handler             -- R25
  cbHp          : Option Handler             -- R25
  rxq0          : List Elem                  -- R26, oldest first
  rxq1          : List Elem                  -- R26, oldest first
  txq           : List Elem                  -- R27, oldest first
  chan          : List Elem                  -- R28, oldest first
  chanDrops     : BitVec 32                  -- R29
  poll          : Option Poll                -- R30
  rxWait        : Bool                       -- MODEL's own: a CHAN_DEQ is held (DESIGN CHOICE, log 8)
  draws         : Nat                        -- MODEL's own: free values drawn so far (DESIGN CHOICE, log 4)
  deriving DecidableEq, Repr

/-- The state of the block. `params` and `schedule` are the MODEL's own fields (DESIGN CHOICE, log 2, log 1). -/
structure State where
  params   : Params              -- the parameters of 00_scope.md R6; no step writes them
  ctrls    : List Controller     -- entry i is instance i; the length is NUM_INSTANCES (R12)
  fault    : Bool                -- R22
  trace    : List TraceEntry     -- R32, oldest first
  schedule : List Slot           -- the steps to be taken, next first
  deriving DecidableEq, Repr

/-- Why the machine stops. -/
inductive Fault where
  /-- Raised by `step` while the sticky `fault` flag is set: no agent has a step (R22, 60_exceptions.md R135). Safe. -/
  | halted
  deriving DecidableEq, Repr

/-- Why a step has no meaning. -/
inductive Refusal where
  /-- Raised by an arm of `exec` that has no meaning yet. Safe. -/
  | notModelled (mnemonic : String)
  /-- Raised by an event whose word is malformed, breaks its format's constraints or names no instance: such an event is
  not a step and no run contains it (30_encoding.md R71 (d)). Safe. -/
  | notAStep
  /-- Raised by POLL_RX on a queue whose receive interrupt is enabled: the use the spec disallows and gives no meaning
  (44_datapath.md R118, 70_reset_and_hazards.md R151). Safe. -/
  | pollOnInterruptQueue
  /-- Raised by CHAN_DEQ on an instance whose CHAN_DEQ is held: a second consumer of one channel, which the spec asks a model
  to refuse (70_reset_and_hazards.md R156, 93_implementation_defined.md U8). Safe. -/
  | secondConsumer
  deriving DecidableEq, Repr

/-- One instance after power-on (R35). The descriptor's `slot`, `queue` and `stored` are unspecified there: DESIGN
CHOICE, log 3. -/
def Controller.powerOn (p : Params) : Controller where
  cstate        := .uninitialized
  bt            := none
  defaultAction := none
  irqEnable     := 0
  irqPending    := 0
  hpStatus      := { valid := false, slot := 0, queue := .q0, stored := false }
  rxLost0       := false
  rxLost1       := false
  filters       := List.replicate p.filterCapacity none
  nextSlot      := 0
  cbRx0         := none
  cbRx1         := none
  cbErr         := none
  cbHp          := none
  rxq0          := []
  rxq1          := []
  txq           := []
  chan          := []
  chanDrops     := 0
  poll          := none
  rxWait        := false
  draws         := 0

/-- The block after power-on with `n` instances and the parameters `p` (R35, 70_reset_and_hazards.md R147). -/
def State.powerOn (p : Params) (n : Nat) : State where
  params   := p
  ctrls    := List.replicate n (Controller.powerOn p)
  fault    := false
  trace    := []
  schedule := []

/-- Power-on reset with the defaults of 00_scope.md R6: two instances. -/
def State.reset : State := State.powerOn Params.defaults 2

end Sys2Proof.Machine
end

