-- ==== Sys2Proof/Machine/Flags.lean ====
section
/-! DEFINITION. The reason masks and the sticky flags: how they are read, set and cleared
(10_state.md R17 to R21, 30_encoding.md R56, 60_exceptions.md R136, R137). -/

namespace Sys2Proof.Machine

/-- RXQ0_NEW and RXQ1_NEW (30_encoding.md R56). -/
def rxMask : Reasons := 0x03

/-- HP_MSG (30_encoding.md R56). -/
def hpMask : Reasons := 0x04

/-- ERR_WARNING, ERR_PASSIVE and BUS_OFF (30_encoding.md R56). -/
def errMask : Reasons := 0x38

/-- The receive reason of a queue (30_encoding.md R56). -/
def QueueId.reason : QueueId → Reasons
  | .q0 => 0x01
  | .q1 => 0x02

/-- The latched reasons as the register reads: bits 0 and 1 always read 0 (10_state.md R18; DEDUCED, log 11). -/
def Controller.latched (x : Controller) : Reasons := x.irqPending &&& (hpMask ||| errMask)

/-- `PendingView` (10_state.md R19): a receive reason is pending exactly while its queue is not empty. -/
def Controller.pendingView (x : Controller) : Reasons :=
  x.latched ||| (if x.rxq0 = [] then 0 else 0x01) ||| (if x.rxq1 = [] then 0 else 0x02)

/-- `IrqLines` (60_exceptions.md R137). -/
def Controller.irqLines (x : Controller) : Reasons := x.pendingView &&& x.irqEnable

/-- `irq_pending <- irq_pending | bits` (44_datapath.md R116, 60_exceptions.md R138). -/
def Controller.latch (x : Controller) (bits : Reasons) : Controller := { x with irqPending := x.irqPending ||| bits }

/-- `irq_pending <- irq_pending & ~bits` (60_exceptions.md R139). -/
def Controller.unlatch (x : Controller) (bits : Reasons) : Controller :=
  { x with irqPending := x.irqPending &&& ~~~bits }

/-- Is the receive interrupt of the queue enabled (44_datapath.md R118)? -/
def Controller.rxIrqEnabled (x : Controller) (q : QueueId) : Bool := decide (x.irqEnable &&& q.reason ≠ 0)

/-- The enables INIT makes from the request (43_controller.md R106): bit 2 set exactly when bit 0 or 1 is requested. -/
def enablesOf (requested : Reasons) : Reasons :=
  (requested &&& 0x3B) ||| (if requested &&& rxMask ≠ 0 then hpMask else 0)

/-- `rx_lost[q] <- 1` (10_state.md R21). -/
def Controller.markLost (x : Controller) : QueueId → Controller
  | .q0 => { x with rxLost0 := true }
  | .q1 => { x with rxLost1 := true }

/-- `rx_lost[q]` (10_state.md R21). -/
def Controller.rxLost (x : Controller) : QueueId → Bool
  | .q0 => x.rxLost0
  | .q1 => x.rxLost1

end Sys2Proof.Machine
end

