-- ==== Sys2Proof/Machine/Codec.lean ====
section
/-! DEFINITION. The frame encoder and decoder (40_frame_codec.md R75 to R83) and the packed forms of 30_encoding.md. -/

namespace Sys2Proof.Machine

/-- `ValidFrame` (R75). -/
def validFrame (id len : Nat) : Bool := decide (id ≤ 0x7FF) && decide (len ≤ 8)

/-- `DlcToLen` (R76; codes 9 to 15 PRESUMED in the spec itself, log 16). -/
def dlcToLen (dlc : Dlc) : Nat := if dlc.toNat ≤ 8 then dlc.toNat else 8

/-- `LenToDlc`, for lengths 0 to 8 (R77). -/
def lenToDlc (len : Nat) : Dlc := BitVec.ofNat 4 len

/-- The first `n` payload bytes of a 64-bit data field, byte i at bits 8i+7:8i (20_memory.md R37). -/
def payload (data : BitVec 64) (n : Nat) : List Byte :=
  (List.range n).map fun k => data.extractLsb' (8 * k) 8

/-- A data field holding the given bytes, byte i at bits 8i+7:8i, the room beyond them 0x00 (R37, R78). -/
def packBytes : List Byte → BitVec 64
  | [] => 0
  | b :: bs => (packBytes bs <<< 8) ||| b.setWidth 64

/-- `EncodeElem` (R78): words D1 D0, then 12 reserved bits, the code, 5 reserved bits and the identifier. -/
def encodeElem (id : CanId) (dlc : Dlc) (data : List Byte) : Elem :=
  packBytes (data.take (dlcToLen dlc)) ++ 0#12 ++ dlc ++ 0#5 ++ id

/-- `e[10:0]` (30_encoding.md R57). -/
def elemId (e : Elem) : CanId := e.extractLsb' 0 11

/-- `e[19:16]` (30_encoding.md R57). -/
def elemDlc (e : Elem) : Dlc := e.extractLsb' 16 4

/-- `e[95:32]` (30_encoding.md R57). -/
def elemData (e : Elem) : BitVec 64 := e.extractLsb' 32 64

/-- `DecodeElem` (R79). -/
def decodeElem (e : Elem) : CanId × Dlc × List Byte :=
  (elemId e, elemDlc e, payload (elemData e) (dlcToLen (elemDlc e)))

/-- `FrameOfElem` (R80). -/
def frameOfElem (e : Elem) : Frame :=
  { id := elemId e, len := dlcToLen (elemDlc e), data := payload (elemData e) (dlcToLen (elemDlc e)) }

/-- `EncodeChan` (R81): the element layout with the byte count in bits 19:16. -/
def encodeChan (f : Frame) : Elem := encodeElem f.id (BitVec.ofNat 4 f.len) f.data

/-- `DecodeChan` (R82). -/
def decodeChan (c : Elem) : Frame :=
  let len := min (c.extractLsb' 16 4).toNat 8
  { id := c.extractLsb' 0 11, len := len, data := payload (c.extractLsb' 32 64) len }

/-- The bits of a vector, most significant first (R83). -/
def bitsMsbFirst {n : Nat} (v : BitVec n) : List Bool :=
  (List.range n).map fun k => v.getLsbD (n - 1 - k)

/-- `SerialBody` (R83): identifier, RTR 0, IDE 0, r0 0, length code, data bytes, each most significant bit first.
The layout is PRESUMED in the spec itself (log 16). -/
def serialBody (id : CanId) (dlc : Dlc) (data : List Byte) : List Bool :=
  bitsMsbFirst id ++ [false, false, false] ++ bitsMsbFirst dlc ++ (data.take (dlcToLen dlc)).flatMap bitsMsbFirst

/-- The unsigned value of a bit string sent most significant bit first (R83). -/
def natOfBits (bits : List Bool) : Nat := bits.foldl (fun acc b => 2 * acc + b.toNat) 0

/-- The next `n` bytes of a bit string, each most significant bit first (R83). -/
def bytesOfBits : Nat → List Bool → List Byte
  | 0, _ => []
  | n + 1, bits => BitVec.ofNat 8 (natOfBits (bits.take 8)) :: bytesOfBits n (bits.drop 8)

/-- `ParseSerialBody` (R83): refuses a remote frame (RTR 1), an extended identifier (IDE 1) and a wrong length. -/
def parseSerialBody (bits : List Bool) : Option (CanId × Dlc × List Byte) :=
  let id : CanId := BitVec.ofNat 11 (natOfBits (bits.take 11))
  let dlc : Dlc := BitVec.ofNat 4 (natOfBits ((bits.drop 14).take 4))
  if bits.getD 11 false || bits.getD 12 false then none
  else if bits.length = 18 + 8 * dlcToLen dlc then some (id, dlc, bytesOfBits (dlcToLen dlc) (bits.drop 18))
  else none

/-- The code of a filter kind (30_encoding.md R52). -/
def FilterKind.code : FilterKind → Nat
  | .range => 0
  | .dualId => 1
  | .mask => 2

/-- The code of a filter action (30_encoding.md R53). -/
def FilterAction.code : FilterAction → Nat
  | .toQ0 => 0
  | .toQ1 => 1
  | .reject => 2
  | .toQ0Hp => 3
  | .toQ1Hp => 4

/-- The code of a default action (30_encoding.md R54). -/
def DefaultAction.code : DefaultAction → Nat
  | .acceptQ0 => 0
  | .acceptQ1 => 1
  | .rejectAll => 2

/-- The code of a lifecycle state (30_encoding.md R51). -/
def CState.code : CState → BitVec 2
  | .uninitialized => 0
  | .configured => 1
  | .running => 2

/-- The code of a status (30_encoding.md R55). -/
def Status.code : Status → BitVec 8
  | .ok => 0
  | .error => 1
  | .busy => 2
  | .timeout => 3
  | .notInitialized => 4
  | .notStarted => 5
  | .alreadyInitialized => 6
  | .invalidArgument => 7

/-- The number of a queue (20_memory.md R36). -/
def QueueId.code : QueueId → Nat
  | .q0 => 0
  | .q1 => 1

/-- The packed filter table entry (30_encoding.md R59). -/
def FilterRule.packed (r : FilterRule) : BitVec 32 :=
  BitVec.ofNat 2 r.kind.code ++ BitVec.ofNat 3 r.action.code ++ r.id1 ++ 0#5 ++ r.id2

/-- The packed high-priority descriptor (30_encoding.md R60). R60 speaks of the slots 0 to 27; a `FILTER_CAPACITY` above 28 has more,
and the 5 bits hold their number modulo 32 (DESIGN CHOICE, log 24). -/
def HpStatus.packed (d : HpStatus) : BitVec 8 :=
  BitVec.ofBool d.valid ++ BitVec.ofBool d.stored ++ BitVec.ofNat 1 d.queue.code ++ BitVec.ofNat 5 d.slot

end Sys2Proof.Machine
end

