-- ==== Sys2Proof/Machine/Operands.lean ====
section
/-! DEFINITION. What the operand fields of a step word stand for (30_encoding.md R51 to R56, R61 to R69). -/

namespace Sys2Proof.Machine

/-- The kind a code names; codes above 2 are reserved (R52). -/
def FilterKind.ofCode (c : BitVec 8) : Option FilterKind :=
  match c.toNat with
  | 0 => some .range
  | 1 => some .dualId
  | 2 => some .mask
  | _ => none

/-- The action a code names; codes above 4 are reserved (R53). -/
def FilterAction.ofCode (c : BitVec 8) : Option FilterAction :=
  match c.toNat with
  | 0 => some .toQ0
  | 1 => some .toQ1
  | 2 => some .reject
  | 3 => some .toQ0Hp
  | 4 => some .toQ1Hp
  | _ => none

/-- The default action a code names; codes above 2 are reserved (R54). -/
def DefaultAction.ofCode (c : BitVec 8) : Option DefaultAction :=
  match c.toNat with
  | 0 => some .acceptQ0
  | 1 => some .acceptQ1
  | 2 => some .rejectAll
  | _ => none

/-- The queue a `queue_id` operand names; 2 and above name none (R71 (e)). -/
def QueueId.ofCode (c : BitVec 8) : Option QueueId :=
  match c.toNat with
  | 0 => some .q0
  | 1 => some .q1
  | _ => none

/-- A 16-bit identifier operand in the standard range 0 to 0x7FF, as an identifier (40_frame_codec.md R75). -/
def idOperand (id : BitVec 16) : Option CanId :=
  if id.toNat ≤ 0x7FF then some (id.setWidth 11) else none

/-- The rule the four operands of ADD_FILTER name, or none when one is out of range (42_filter.md R101). -/
def ruleOperands (kind action : BitVec 8) (id1 id2 : BitVec 16) : Option FilterRule :=
  match FilterKind.ofCode kind, FilterAction.ofCode action, idOperand id1, idOperand id2 with
  | some k, some a, some i1, some i2 => some { kind := k, action := a, id1 := i1, id2 := i2 }
  | _, _, _, _ => none

/-- A handler operand: 0 means none (30_encoding.md R66). -/
def handlerOperand (h : Handler) : Option Handler := if h = 0 then none else some h

/-- `H_CHAN`, the reference receive handler (10_state.md R25, 45_channel.md R123). -/
def hChan : Handler := 1

end Sys2Proof.Machine
end

