-- ==== Sys2Proof/Machine/Ops.lean ====
section
/-! DEFINITION. The operations every step shares: reaching an instance, answering a status, the queues, the instance reset,
the channel's producer end, the extractor, and the dispatcher (entry, the four blocks, return). -/

namespace Sys2Proof.Machine

/-! ### Reaching an instance -/

/-- `NUM_INSTANCES` (10_state.md R12). -/
def State.numInstances (s : State) : Nat := s.ctrls.length

/-- The instance an `inst` field names; none when it is unknown (60_exceptions.md R132). -/
def State.ctrl? (s : State) (inst : InstId) : Option Controller := s.ctrls[inst.toNat]?

/-- `emit` (00_scope.md R8): the events join the output trace in order. -/
def State.emit (s : State) (inst : InstId) (evs : List Event) : State :=
  { s with trace := s.trace ++ evs.map fun e => { inst := inst, event := e } }

/-- Instance `inst` becomes `x` and the events are emitted. -/
def State.commit (s : State) (inst : InstId) (x : Controller) (evs : List Event) : State :=
  { s with ctrls := s.ctrls.set inst.toNat x, trace := s.trace ++ evs.map fun e => { inst := inst, event := e } }

/-- The output trace of one instance (10_state.md R32). -/
def State.traceOf (s : State) (inst : InstId) : List Event :=
  (s.trace.filter fun t => t.inst = inst).map TraceEntry.event

/-- What a step does to the instance it names. -/
inductive LocalResult where
  /-- the instance afterwards and the events emitted -/
  | done (x : Controller) (evs : List Event)
  /-- a violated invariant of R34 was found: the fatal assertion (60_exceptions.md R135) -/
  | fatal
  | refused (r : Refusal)
  deriving DecidableEq, Repr

/-- The effect of a local result on the block; the fatal assertion sets the sticky flag (10_state.md R22). -/
def State.settle (s : State) (inst : InstId) : LocalResult → Host.Outcome State Fault Refusal
  | .done x evs => .next (s.commit inst x evs)
  | .fatal => .next { s with fault := true }
  | .refused r => .refused r

/-! ### Statuses: the synchronous exceptions (R55, R131) -/

/-- `raise` of a command that has changed nothing: the response and no other change (00_scope.md R8). -/
def Controller.raise (x : Controller) (op : OpCode) (st : Status) : LocalResult := .done x [.resp op st]

/-- A well-formed host command: an unknown instance answers Error and changes nothing (43_controller.md R103). -/
def hostCommand (op : OpCode) (inst : InstId) (s : State) (body : Controller → LocalResult) :
    Host.Outcome State Fault Refusal :=
  match s.ctrl? inst with
  | none => .next (s.emit inst [.resp op .error])
  | some x => s.settle inst (body x)

/-- An event: one that names no instance is not a step (30_encoding.md R71 (d)). -/
def eventStep (inst : InstId) (s : State) (body : Controller → LocalResult) : Host.Outcome State Fault Refusal :=
  match s.ctrl? inst with
  | none => .refused .notAStep
  | some x => s.settle inst (body x)

/-- `StateError` (43_controller.md R104); in Running no command asks for it. -/
def stateError : CState → Status
  | .uninitialized => .notInitialized
  | .configured => .notStarted
  | .running => .ok

/-! ### Queues and callback slots -/

/-- `rxq[q]` (10_state.md R26). -/
def Controller.rxq (x : Controller) : QueueId → List Elem
  | .q0 => x.rxq0
  | .q1 => x.rxq1

/-- `rxq[q] <- l`. -/
def Controller.setRxq (x : Controller) (l : List Elem) : QueueId → Controller
  | .q0 => { x with rxq0 := l }
  | .q1 => { x with rxq1 := l }

/-- `cb_rx[q]` (10_state.md R25). -/
def Controller.cbRx (x : Controller) : QueueId → Option Handler
  | .q0 => x.cbRx0
  | .q1 => x.cbRx1

/-- `cb_rx[q] <- h`: one atomic store (20_memory.md R47). -/
def Controller.setCbRx (x : Controller) (h : Option Handler) : QueueId → Controller
  | .q0 => { x with cbRx0 := h }
  | .q1 => { x with cbRx1 := h }

/-- `HwReset` (43_controller.md R105). -/
def Controller.hwReset (p : Params) (x : Controller) : Controller :=
  { x with
    filters    := List.replicate p.filterCapacity none
    nextSlot   := 0
    rxq0       := []
    rxq1       := []
    txq        := []
    irqEnable  := 0
    irqPending := 0
    hpStatus   := { x.hpStatus with valid := false }
    rxLost0    := false
    rxLost1    := false
    poll       := none }

/-! ### The channel's producer end and the extractor -/

/-- `chan_drops` counts one more discarded frame, saturating, when `COUNT_DROPS` (10_state.md R29). -/
def Controller.countDrop (p : Params) (x : Controller) : Controller :=
  if p.countDrops ∧ x.chanDrops.toNat < 0xFFFFFFFF then { x with chanDrops := x.chanDrops + 1 } else x

/-- `ChanEnqueue` (45_channel.md R124). A full channel with no oldest entry has capacity 0: the new frame is dropped, as it
would be with `drop_newest` (DEDUCED, log 2). -/
def Controller.chanEnqueue (p : Params) (x : Controller) (f : Frame) : Controller :=
  if x.chan.length < p.chanCapacity then { x with chan := x.chan ++ [encodeChan f] }
  else
    match p.chanPolicy with
    | .dropNewest => x.countDrop p
    | .dropOldest =>
      match x.chan with
      | [] => x.countDrop p
      | _ :: rest => { x with chan := rest ++ [encodeChan f] }.countDrop p

/-- `ExtractOne` (44_datapath.md R117); every caller has found the queue not empty. -/
def Controller.extractOne (p : Params) (x : Controller) (q : QueueId) : Controller × List Event :=
  match x.rxq q with
  | [] => (x, [])
  | e :: rest =>
    let x' := x.setRxq rest q
    let f := frameOfElem e
    match x.cbRx q with
    | none => (x', [])
    | some h => (if h = hChan then x'.chanEnqueue p f else x', [.rxCb q h f])

/-! ### Interrupt entry, handling and return (60_exceptions.md R139, R140) -/

/-- One of the four blocks of the dispatcher (R139). -/
def Controller.dispatchBlock (p : Params) (reasons : Reasons) (x : Controller) : ReasonClass → Controller × List Event
  | .rxq0 => if reasons &&& 0x01 ≠ 0 then x.extractOne p .q0 else (x, [])
  | .rxq1 => if reasons &&& 0x02 ≠ 0 then x.extractOne p .q1 else (x, [])
  | .err =>
    if reasons &&& errMask ≠ 0 then
      (x.unlatch (reasons &&& errMask), match x.cbErr with | none => [] | some h => [.errCb h reasons])
    else (x, [])
  | .hp =>
    if reasons &&& hpMask ≠ 0 then
      (x.unlatch hpMask, match x.cbHp with | none => [] | some h => [.hpCb h x.hpStatus])
    else (x, [])

/-- The blocks of one dispatcher call, in the given order. -/
def Controller.dispatchBlocks (p : Params) (reasons : Reasons) :
    List ReasonClass → Controller → Controller × List Event
  | [], x => (x, [])
  | c :: rest, x =>
    let r := x.dispatchBlock p reasons c
    let r' := Controller.dispatchBlocks p reasons rest r.1
    (r'.1, r.2 ++ r'.2)

/-- Taking an interrupt: the dispatcher is entered with the raw mask, runs its blocks in `DISPATCH_ORDER` and returns.
Entry saves nothing and changes no mode, mask or stack; return restores nothing (R139, R140). -/
def Controller.dispatch (p : Params) (reasons : Reasons) (x : Controller) : Controller × List Event :=
  Controller.dispatchBlocks p reasons p.dispatchOrder x

end Sys2Proof.Machine
end

