-- ==== Sys2Proof/Machine/Channel.lean ====
section
/-! DEFINITION. The consumer end of the receive channel (45_channel.md R125). -/

namespace Sys2Proof.Machine

/-- The consumer's receive (R125): the oldest entry leaves the channel; on an empty channel the RxTask is held, which the
model records (DESIGN CHOICE, log 8) and nothing else changes. -/
def Controller.takeOldest (x : Controller) : LocalResult :=
  match x.chan with
  | [] => .done { x with rxWait := true } []
  | c :: rest => .done { x with chan := rest, rxWait := false } [.deq (decodeChan c), .resp 0xF .ok]

/-- CHAN_DEQ on a known instance (R125). A held RxTask has no step, so a CHAN_DEQ issued while one is held is a second
consumer's (70_reset_and_hazards.md R156, 93 U8). -/
def Controller.dequeue (x : Controller) : LocalResult :=
  if x.rxWait then .refused .secondConsumer else x.takeOldest

/-- CHAN_DEQ (R125). -/
def execChanDeq (inst : InstId) (s : State) : Host.Outcome State Fault Refusal :=
  hostCommand 0xF inst s Controller.dequeue

/-- A held CHAN_DEQ may go on exactly when the channel is not empty (R125). -/
def Controller.deqReady (x : Controller) : Bool := x.rxWait && decide (x.chan ≠ [])

/-- The held CHAN_DEQ takes its step (R125, log 8); not enabled, it does not happen. -/
def execDeqResume (inst : InstId) (s : State) : Host.Outcome State Fault Refusal :=
  match s.ctrl? inst with
  | none => .next s
  | some x => if x.deqReady then s.settle inst x.takeOldest else .next s

end Sys2Proof.Machine
end

