-- ==== Sys2Proof/Machine/Filter.lean ====
section
/-! DEFINITION. The identifier acceptance filter: the match predicates, the classification and ADD_FILTER
(42_filter.md R95 to R101). -/

namespace Sys2Proof.Machine

/-- `MatchRange` (R95). -/
def matchRange (id1 id2 id : CanId) : Bool := decide (id1.toNat ≤ id.toNat) && decide (id.toNat ≤ id2.toNat)

/-- `MatchDual` (R96). -/
def matchDual (id1 id2 id : CanId) : Bool := decide (id = id1) || decide (id = id2)

/-- `MatchMask` (R97): a 1 in the mask `id2` compares the bit (PRESUMED in the spec itself, log 16). -/
def matchMask (id1 id2 id : CanId) : Bool := decide (id &&& id2 = id1 &&& id2)

/-- `FilterMatch` (R98). -/
def FilterRule.matchesId (r : FilterRule) (id : CanId) : Bool :=
  match r.kind with
  | .range => matchRange r.id1 r.id2 id
  | .dualId => matchDual r.id1 r.id2 id
  | .mask => matchMask r.id1 r.id2 id

/-- A verdict of the filter (R99). -/
inductive Verdict where
  | discard
  | store (q : QueueId) (hp : Bool)
  deriving DecidableEq, Repr

/-- `QueueOf` and `IsHp` of an action as a verdict (30_encoding.md R53, R99). -/
def FilterAction.verdict : FilterAction → Verdict
  | .toQ0 => .store .q0 false
  | .toQ1 => .store .q1 false
  | .reject => .discard
  | .toQ0Hp => .store .q0 true
  | .toQ1Hp => .store .q1 true

/-- The verdict on a frame no rule matches; never high priority (R99). -/
def DefaultAction.verdict : DefaultAction → Verdict
  | .acceptQ0 => .store .q0 false
  | .acceptQ1 => .store .q1 false
  | .rejectAll => .discard

/-- Where the scan of the table ends. -/
inductive Scan where
  | hit (slot : Nat) (r : FilterRule)
  | noMatch
  /-- a slot below `next_slot` holds None: invariant (I-b) of R34 is violated -/
  | corrupt
  deriving DecidableEq, Repr

/-- The scan of R99 in increasing slot index, from slot `k`; the first match ends it (PRESUMED in the
spec itself, log 16). -/
def scanFrom (id : CanId) : Nat → List (Option FilterRule) → Scan
  | _, [] => .noMatch
  | _, none :: _ => .corrupt
  | k, some r :: rest => if r.matchesId id then .hit k r else scanFrom id (k + 1) rest

/-- The result of `Classify`, or why there is none. -/
inductive Classification where
  | decided (v : Verdict) (slot : Option Nat)
  /-- an invariant of R34 is violated: (I-b), an empty slot below `next_slot`, or (I-f), no default action in an instance that
  classifies frames (DEDUCED, log 9) -/
  | corrupt
  deriving DecidableEq, Repr

/-- `Classify` (R99). -/
def Controller.classify (x : Controller) (id : CanId) : Classification :=
  match scanFrom id 0 (x.filters.take x.nextSlot) with
  | .hit k r => .decided r.action.verdict (some k)
  | .corrupt => .corrupt
  | .noMatch =>
    match x.defaultAction with
    | none => .corrupt
    | some a => .decided a.verdict none

/-- ADD_FILTER on a known instance (R101). -/
def Controller.addFilter (p : Params) (kind action : BitVec 8) (id1 id2 : BitVec 16) (x : Controller) : LocalResult :=
  match x.cstate with
  | .uninitialized => x.raise 0x2 .notInitialized
  | .running => x.raise 0x2 .error
  | .configured =>
    match ruleOperands kind action id1 id2 with
    | none => x.raise 0x2 .invalidArgument
    | some r =>
      if x.nextSlot = p.filterCapacity then x.raise 0x2 .error
      else
        .done { x with filters := x.filters.set x.nextSlot (some r), nextSlot := x.nextSlot + 1 } [.resp 0x2 .ok]

/-- ADD_FILTER (R101). -/
def execAddFilter (inst : InstId) (kind action : BitVec 8) (id1 id2 : BitVec 16) (s : State) :
    Host.Outcome State Fault Refusal :=
  hostCommand 0x2 inst s (Controller.addFilter s.params kind action id1 id2)

end Sys2Proof.Machine
end

