-- ==== Sys2Proof/Machine/Datapath.lean ====
section
/-! DEFINITION. Transmit, receive, the polled receive and TICK (44_datapath.md R113 to R120). -/

namespace Sys2Proof.Machine

/-! ### Transmit -/

/-- SEND on a known instance (R113). -/
def Controller.submit (p : Params) (id : BitVec 16) (length : BitVec 8) (data : BitVec 64) (x : Controller) :
    LocalResult :=
  if x.cstate ≠ .running then x.raise 0x4 (stateError x.cstate)
  else if validFrame id.toNat length.toNat = false then x.raise 0x4 .invalidArgument
  else if x.txq.length = p.txqDepth then x.raise 0x4 .busy
  else
    .done { x with
        txq := x.txq ++ [encodeElem (id.setWidth 11) (lenToDlc length.toNat) (payload data length.toNat)] }
      [.resp 0x4 .ok]

/-- SEND (R113). -/
def execSend (inst : InstId) (id : BitVec 16) (length : BitVec 8) (data : BitVec 64) (s : State) :
    Host.Outcome State Fault Refusal :=
  hostCommand 0x4 inst s (Controller.submit s.params id length data)

/-- The store of a classified frame into queue `q` (R116): a full queue loses the new frame. -/
def Controller.storeFrame (p : Params) (id : CanId) (dlc : Dlc) (data : List Byte) (q : QueueId) (x : Controller) :
    Controller × Bool :=
  if (x.rxq q).length < p.rxqDepth then (x.setRxq (x.rxq q ++ [encodeElem id dlc data]) q, true)
  else (x.markLost q, false)

/-- `AcceptFrame` (R116). -/
def Controller.acceptFrame (p : Params) (id : CanId) (dlc : Dlc) (data : List Byte) (x : Controller) : LocalResult :=
  match x.classify id with
  | .corrupt => .fatal
  | .decided .discard _ => .done x []
  | .decided (.store q hp) slot =>
    let r := x.storeFrame p id dlc data q
    match hp, slot with
    | true, some k =>
      .done ({ r.1 with hpStatus := { valid := true, slot := k, queue := q, stored := r.2 } }.latch hpMask) []
    | _, _ => .done r.1 []

/-- `LOOPBACK[i]` (00_scope.md R6). -/
def isLoopback (p : Params) (inst : InstId) : Bool := p.loopback.getD inst.toNat false

/-- TX_XMIT is enabled exactly when Running with a queued element (R114, 60_exceptions.md R129). -/
def Controller.txEnabled (x : Controller) : Bool := decide (x.cstate = .running) && decide (x.txq ≠ [])

/-- The position of the element the transmit engine takes: the head, or with `TX_ORDER = any` a free one (R114, log 4). -/
def txPosition (p : Params) (inst : InstId) (draws len : Nat) : Nat :=
  match p.txOrder with
  | .fifo => 0
  | .any => Config.txPick inst.toNat draws % len

/-- The draws of an instance after its transmit engine has taken an element (log 4). -/
def nextDraw (p : Params) (draws : Nat) : Nat :=
  match p.txOrder with
  | .fifo => draws
  | .any => draws + 1

/-- The element at position `k` leaves `txq` (R114). -/
def Controller.takeTx (p : Params) (k : Nat) (x : Controller) : Controller :=
  { x with txq := x.txq.eraseIdx k, draws := nextDraw p x.draws }

/-- One element leaves `txq`: to the own receive path on a loopback instance, else to the bus (R114). -/
def Controller.transmit (p : Params) (inst : InstId) (x : Controller) : LocalResult :=
  let k := txPosition p inst x.draws x.txq.length
  match x.txq[k]? with
  | none => .done x []
  | some e =>
    let y := x.takeTx p k
    let d := decodeElem e
    if isLoopback p inst then y.acceptFrame p d.1 d.2.1 d.2.2
    else .done y [.busTx d.1 d.2.1 d.2.2]

/-- TX_XMIT (R114); not enabled, it does not happen (60_exceptions.md R129; DEDUCED, log 5). -/
def execTxXmit (inst : InstId) (s : State) : Host.Outcome State Fault Refusal :=
  eventStep inst s fun x => if x.txEnabled then x.transmit s.params inst else .done x []

/-! ### Receive -/

/-- BUS_RX (R115): outside its format it is not a step (30_encoding.md R71 (d)); outside Running, or on a loopback instance,
an arriving frame changes nothing; a remote frame is dropped before the filter. -/
def execBusRx (inst : InstId) (id : BitVec 16) (dlc : BitVec 8) (data : BitVec 64) (rtr : BitVec 1) (s : State) :
    Host.Outcome State Fault Refusal :=
  if busRxFormat id dlc then
    eventStep inst s fun x =>
      if x.cstate ≠ .running ∨ isLoopback s.params inst ∨ rtr = 1 then .done x []
      else
        let code : Dlc := dlc.setWidth 4
        x.acceptFrame s.params (id.setWidth 11) code (payload data (dlcToLen code))
  else .refused .notAStep

/-! ### Polled receive and TICK -/

/-- POLL_RX on a known instance (R118). -/
def Controller.pollReceive (p : Params) (queueId : BitVec 8) (timeout : BitVec 32) (x : Controller) : LocalResult :=
  if x.cstate ≠ .running then x.raise 0x9 (stateError x.cstate)
  else
    match QueueId.ofCode queueId with
    | none => x.raise 0x9 .invalidArgument
    | some q =>
      if x.poll ≠ none then x.raise 0x9 .busy
      else if x.rxIrqEnabled q then .refused .pollOnInterruptQueue
      else if x.rxq q ≠ [] then
        let r := x.extractOne p q
        .done r.1 (r.2 ++ [.resp 0x9 .ok])
      else if timeout = 0 then x.raise 0x9 .timeout
      else .done { x with poll := some { queue := q, remaining := timeout.toNat } } []

/-- POLL_RX (R118). -/
def execPollRx (inst : InstId) (queueId : BitVec 8) (timeout : BitVec 32) (s : State) :
    Host.Outcome State Fault Refusal :=
  hostCommand 0x9 inst s (Controller.pollReceive s.params queueId timeout)

/-- A held poll ends with the frame present in its queue (R119, R120). -/
def Controller.finishPoll (p : Params) (q : QueueId) (x : Controller) : Controller × List Event :=
  let r := x.extractOne p q
  ({ r.1 with poll := none }, r.2 ++ [.pollDone .ok])

/-- The completion of a held poll is enabled exactly when its queue is not empty (R119). -/
def Controller.pollReady (x : Controller) : Bool :=
  match x.poll with
  | none => false
  | some h => decide (x.rxq h.queue ≠ [])

/-- Completion of a held poll by arrival (R119); not enabled, it does not happen. -/
def execPollDone (inst : InstId) (s : State) : State :=
  match s.ctrl? inst with
  | none => s
  | some x =>
    match x.poll with
    | none => s
    | some h => if x.rxq h.queue = [] then s else s.commit inst (x.finishPoll s.params h.queue).1
        (x.finishPoll s.params h.queue).2

/-- One tick on one instance (R120). -/
def Controller.tick (p : Params) (x : Controller) : Controller × List Event :=
  match x.poll with
  | none => (x, [])
  | some h =>
    if h.remaining > 1 then ({ x with poll := some { h with remaining := h.remaining - 1 } }, [])
    else if x.rxq h.queue ≠ [] then x.finishPoll p h.queue
    else ({ x with poll := none }, [.pollDone .timeout])

/-- One tick on the instances from number `k` on, in increasing number (R120; DESIGN CHOICE, log 12). -/
def tickFrom (p : Params) : Nat → List Controller → List Controller × List TraceEntry
  | _, [] => ([], [])
  | k, x :: xs =>
    let r := x.tick p
    let rs := tickFrom p (k + 1) xs
    (r.1 :: rs.1, (r.2.map fun e => { inst := BitVec.ofNat 4 k, event := e }) ++ rs.2)

/-- TICK (R120): always enabled, acts on every instance. -/
def execTick (s : State) : Host.Outcome State Fault Refusal :=
  let r := tickFrom s.params 0 s.ctrls
  .next { s with ctrls := r.1, trace := s.trace ++ r.2 }

end Sys2Proof.Machine
end

