-- ==== Sys2Proof/Machine/Interrupt.lean ====
section
/-! DEFINITION. The bus status event and the dispatcher step (60_exceptions.md R137 to R139). -/

namespace Sys2Proof.Machine

/-- BUS_STATUS (R138): outside its format it is not a step; not Running, it does not happen. -/
def execBusStatus (inst : InstId) (reasons : Reasons) (s : State) : Host.Outcome State Fault Refusal :=
  if busStatusFormat reasons then
    eventStep inst s fun x =>
      if x.cstate = .running then .done (x.latch (reasons &&& errMask)) [] else .done x []
  else .refused .notAStep

/-- IRQ_DISPATCH is enabled exactly in Running, with `reasons = IrqLines ≠ 0` (R137). -/
def Controller.irqEnabled (x : Controller) (reasons : Reasons) : Bool :=
  decide (x.cstate = .running) && decide (x.irqLines ≠ 0) && decide (reasons = x.irqLines)

/-- IRQ_DISPATCH (R139); not enabled, it does not happen. -/
def execIrqDispatch (inst : InstId) (reasons : Reasons) (s : State) : Host.Outcome State Fault Refusal :=
  eventStep inst s fun x =>
    if x.irqEnabled reasons then
      let r := x.dispatch s.params reasons
      .done r.1 r.2
    else .done x []

end Sys2Proof.Machine
end

