-- ==== Sys2Proof/Machine/BitTiming.lean ====
section
/-! DEFINITION. The bit-timing parameter unit (41_bit_timing.md R84 to R94): exact arithmetic on unbounded naturals and
rationals, nothing wrapped or rounded. Only `btLegal` is read by a step (INIT). -/

namespace Sys2Proof.Machine

/-- A BitTiming (R84). -/
structure BitTiming where
  prescaler : Nat
  ts1       : Nat
  ts2       : Nat
  sjw       : Nat
  deriving DecidableEq, Repr

/-- The tuple the four registers hold (10_state.md R15). -/
def BtRegs.timing (r : BtRegs) : BitTiming :=
  { prescaler := r.prescaler.toNat, ts1 := r.ts1.toNat, ts2 := r.ts2.toNat, sjw := r.sjw.toNat }

/-- `QuantaPerBit` (R85). -/
def quantaPerBit (bt : BitTiming) : Nat := 1 + bt.ts1 + bt.ts2

/-- `BitCycles` (R86). -/
def bitCycles (bt : BitTiming) : Nat := bt.prescaler * quantaPerBit bt

/-- `BitTime` in seconds (R86). -/
def bitTime (bt : BitTiming) (clockHz : Nat) : Rat := (bitCycles bt : Rat) / (clockHz : Rat)

/-- `Bitrate` in bits per second (R87). -/
def bitrate (bt : BitTiming) (clockHz : Nat) : Rat := (clockHz : Rat) / (bitCycles bt : Rat)

/-- `Derivable` (R88). -/
def derivable (bt : BitTiming) (clockHz rate : Nat) : Bool := decide (rate * bitCycles bt = clockHz)

/-- `BtLegal` (R89). -/
def btLegal (p : Params) (bt : BitTiming) : Bool :=
  decide (1 ≤ bt.prescaler ∧ bt.prescaler ≤ p.prescMax) && decide (1 ≤ bt.ts1 ∧ bt.ts1 ≤ p.ts1Max)
    && decide (1 ≤ bt.ts2 ∧ bt.ts2 ≤ p.ts2Max) && decide (1 ≤ bt.sjw ∧ bt.sjw ≤ p.sjwMax)

/-- `SamplePoint` (R90; PRESUMED in the spec itself, log 16); read by no rule. -/
def samplePoint (bt : BitTiming) : Rat := ((1 + bt.ts1 : Nat) : Rat) / (quantaPerBit bt : Rat)

/-- The search of R93 over `fuel` prescalers from `presc` upwards. -/
def quantizeFrom (p : Params) (clockHz rate : Nat) : (fuel presc : Nat) → Option BitTiming
  | 0, _ => none
  | fuel + 1, presc =>
    if clockHz % (presc * rate) ≠ 0 then quantizeFrom p clockHz rate fuel (presc + 1)
    else
      let nq := clockHz / (presc * rate)
      if nq < 3 then none
      else
        let ts1 := 7 * nq / 8 - 1
        let ts2 := nq - 1 - ts1
        if ts1 > p.ts1Max ∨ ts2 > p.ts2Max then quantizeFrom p clockHz rate fuel (presc + 1)
        else some { prescaler := presc, ts1 := ts1, ts2 := ts2, sjw := min ts2 p.sjwMax }

/-- `QuantizeRef` (R93): prescalers 1 to PRESC_MAX, smallest first. -/
def quantizeRef (p : Params) (clockHz rate : Nat) : Option BitTiming :=
  quantizeFrom p clockHz rate p.prescMax 1

end Sys2Proof.Machine
end

