-- ==== Sys2Proof/Machine/Lifecycle.lean ====
section
/-! DEFINITION. The controller lifecycle and the callback registrations (43_controller.md R106 to R111). -/

namespace Sys2Proof.Machine

/-- What `bt` holds after an INIT with the legal tuple `bt` that is rejected for its default action: the tuple (R106), or what it
held before (10_state.md R15), as `btWrite` says (DESIGN CHOICE, log 23). -/
def Controller.btAfterRejection (p : Params) (bt : BtRegs) (x : Controller) : Option BtRegs :=
  match p.btWrite with
  | .beforeAction => some bt
  | .onSuccess => x.bt

/-- INIT on a known instance, in the source's order of actions (R106). -/
def Controller.initialise (p : Params) (bt : BtRegs) (action : BitVec 8) (requested : Reasons) (x : Controller) :
    LocalResult :=
  match x.cstate with
  | .running => x.raise 0x1 .alreadyInitialized
  | .uninitialized | .configured =>
    let y : Controller := { x.hwReset p with cstate := .uninitialized }
    if btLegal p bt.timing then
      match DefaultAction.ofCode action with
      | none => .done { y with bt := x.btAfterRejection p bt } [.resp 0x1 .error]
      | some a =>
        .done { y with
            bt := some bt, defaultAction := some a, irqEnable := enablesOf requested, cstate := .configured }
          [.resp 0x1 .ok]
    else .done y [.resp 0x1 .error]

/-- INIT (R106). -/
def execInit (inst : InstId) (prescaler ts1 ts2 sjw : BitVec 16) (defaultAction : BitVec 8) (requested : Reasons)
    (s : State) : Host.Outcome State Fault Refusal :=
  hostCommand 0x1 inst s (Controller.initialise s.params ⟨prescaler, ts1, ts2, sjw⟩ defaultAction requested)

/-- START on a known instance (R107). -/
def Controller.startUp (x : Controller) : LocalResult :=
  match x.cstate with
  | .uninitialized => x.raise 0x3 .notInitialized
  | .configured => .done { x with cstate := .running } [.resp 0x3 .ok]
  | .running => x.raise 0x3 .ok

/-- START (R107). -/
def execStart (inst : InstId) (s : State) : Host.Outcome State Fault Refusal :=
  hostCommand 0x3 inst s Controller.startUp

/-- STOP on a known instance (R108). -/
def Controller.shutDown (p : Params) (x : Controller) : LocalResult :=
  match x.cstate with
  | .uninitialized => x.raise 0x5 .notInitialized
  | .configured => x.raise 0x5 .notStarted
  | .running =>
    .done { x.hwReset p with cbRx0 := none, cbRx1 := none, cbErr := none, cbHp := none, cstate := .uninitialized }
      ((if x.poll = none then [] else [.pollDone .notStarted]) ++ [.resp 0x5 .ok])

/-- STOP (R108). -/
def execStop (inst : InstId) (s : State) : Host.Outcome State Fault Refusal :=
  hostCommand 0x5 inst s (Controller.shutDown s.params)

/-- REG_RX_CB on a known instance (R109). -/
def Controller.registerRx (queueId : BitVec 8) (handler : Handler) (x : Controller) : LocalResult :=
  match QueueId.ofCode queueId with
  | none => x.raise 0x6 .invalidArgument
  | some q => .done (x.setCbRx (handlerOperand handler) q) [.resp 0x6 .ok]

/-- REG_RX_CB (R109). -/
def execRegRxCb (inst : InstId) (queueId : BitVec 8) (handler : Handler) (s : State) :
    Host.Outcome State Fault Refusal :=
  hostCommand 0x6 inst s (Controller.registerRx queueId handler)

/-- REG_ERR_CB (R110). -/
def execRegErrCb (inst : InstId) (handler : Handler) (s : State) : Host.Outcome State Fault Refusal :=
  hostCommand 0x7 inst s fun x => .done { x with cbErr := handlerOperand handler } [.resp 0x7 .ok]

/-- REG_HP_CB (R111). -/
def execRegHpCb (inst : InstId) (handler : Handler) (s : State) : Host.Outcome State Fault Refusal :=
  hostCommand 0x8 inst s fun x => .done { x with cbHp := handlerOperand handler } [.resp 0x8 .ok]

end Sys2Proof.Machine
end

