-- ==== Sys2Proof/Machine/Dispatch.lean ====
section
/-! DEFINITION. The dispatch of a decoded step to its meaning, one arm per constructor (30_encoding.md R70). -/

namespace Sys2Proof.Machine

/-- One step word's effect on the block (30_encoding.md R70). -/
def exec (i : Instr) (s : State) : Host.Outcome State Fault Refusal :=
  match i with
  | .init inst prescaler ts1 ts2 sjw action requested => Sys2Proof.Machine.execInit inst prescaler ts1 ts2 sjw action requested s
  | .addFilter inst kind action id1 id2 => Sys2Proof.Machine.execAddFilter inst kind action id1 id2 s
  | .start inst => Sys2Proof.Machine.execStart inst s
  | .send inst id length data => Sys2Proof.Machine.execSend inst id length data s
  | .stop inst => Sys2Proof.Machine.execStop inst s
  | .regRxCb inst queueId handler => Sys2Proof.Machine.execRegRxCb inst queueId handler s
  | .regErrCb inst handler => Sys2Proof.Machine.execRegErrCb inst handler s
  | .regHpCb inst handler => Sys2Proof.Machine.execRegHpCb inst handler s
  | .pollRx inst queueId timeout => Sys2Proof.Machine.execPollRx inst queueId timeout s
  | .busRx inst id dlc data rtr => Sys2Proof.Machine.execBusRx inst id dlc data rtr s
  | .txXmit inst => Sys2Proof.Machine.execTxXmit inst s
  | .irqDispatch inst reasons => Sys2Proof.Machine.execIrqDispatch inst reasons s
  | .busStatus inst reasons => Sys2Proof.Machine.execBusStatus inst reasons s
  | .tick => Sys2Proof.Machine.execTick s
  | .chanDeq inst => Sys2Proof.Machine.execChanDeq inst s

end Sys2Proof.Machine
end

