-- ==== Sys2Proof/Machine/Fetch.lean ====
section
/-! DEFINITION. What is taken next and what is done with it: the schedule (log 1), the answer to a word that decodes to no
instruction (30_encoding.md R71), and the internal steps that have no word. -/

namespace Sys2Proof.Machine

/-- The next scheduled step and the state without it. -/
def State.fetch (s : State) : Option (Slot × State) :=
  match s.schedule with
  | [] => none
  | slot :: rest => some (slot, { s with schedule := rest })

/-- A host command that is illegal or malformed answers InvalidArgument and changes nothing else; a malformed event is not
a step (R71 (c), (d); 43_controller.md R103). -/
def rejectWord (e : DecodeError) (s : State) : Host.Outcome State Fault Refusal :=
  match e with
  | .illegal inst => .next (s.emit inst [.resp 0x0 .invalidArgument])
  | .malformed op inst => .next (s.emit inst [.resp op .invalidArgument])
  | .notAStep => .refused .notAStep

/-- One step word (30_encoding.md R61, R70, R71). -/
def runWord (w : StepWord) (s : State) : Host.Outcome State Fault Refusal :=
  match decode w with
  | .ok i => exec i s
  | .error e => rejectWord e s

/-- One scheduled step. -/
def runSlot (slot : Slot) (s : State) : Host.Outcome State Fault Refusal :=
  match slot with
  | .word w => runWord w s
  | .pollDone inst => .next (execPollDone inst s)
  | .deqResume inst => execDeqResume inst s

/-- The schedule with the step word of a table row placed first (30_encoding.md R61: 128 bits, bit 0 least significant). -/
def State.offerWord (s : State) (nbits w : Nat) : State :=
  { s with schedule := .word (BitVec.ofNat 128 (w % 2 ^ nbits)) :: s.schedule }

end Sys2Proof.Machine
end

