-- ==== Sys2Proof/Machine/Step.lean ====
section
/-! DEFINITION. One step of the block (60_exceptions.md R129, R130). -/

namespace Sys2Proof.Machine

/-- One step: none while `fault` is set (10_state.md R22); the next scheduled step (DESIGN CHOICE, log 1); with nothing scheduled the block
does nothing (70_reset_and_hazards.md R148). -/
def step (s : State) : Host.Outcome State Fault Refusal :=
  if s.fault then .fault .halted
  else
    match s.fetch with
    | none => .next s
    | some (slot, s') => runSlot slot s'

/-- `s` with the table word placed where `step` takes its next step from. -/
def State.withFetchWord (s : State) (nbits w : Nat) : State := s.offerWord nbits w

end Sys2Proof.Machine
end

