-- ==== Sys2Proof/Safety.lean ====
section
/-! DEFINITION. What claims speak of: when a step is enabled (60_exceptions.md R129), the invariants (10_state.md R34),
reachable states, runs and their fairness (R130), and final states (70_reset_and_hazards.md R150). -/

namespace Sys2Proof.Machine

/-! ### Enabling (60_exceptions.md R129) -/

/-- A condition on the instance an `inst` field names; false when it names none. -/
def State.onCtrl (s : State) (inst : InstId) (f : Controller → Bool) : Bool :=
  match s.ctrl? inst with
  | none => false
  | some x => f x

/-- Is the step enabled (R129)? CHAN_DEQ for an unknown instance is answered at once. Of an instance whose CHAN_DEQ is held the
dequeue is `Slot.deqResume` (log 8), and another CHAN_DEQ is a second consumer's (70_reset_and_hazards.md R156). -/
def State.enables (s : State) (i : Instr) : Bool :=
  !s.fault &&
    match i with
    | .init .. | .addFilter .. | .start .. | .send .. | .stop .. | .regRxCb .. | .regErrCb .. | .regHpCb ..
    | .pollRx .. | .tick => true
    | .chanDeq inst => decide (s.ctrl? inst = none) || s.onCtrl inst fun x => !x.rxWait && decide (x.chan ≠ [])
    | .busRx inst .. =>
        i.wellFormed && s.onCtrl inst fun x => decide (x.cstate = .running) && !isLoopback s.params inst
    | .txXmit inst => s.onCtrl inst Controller.txEnabled
    | .busStatus inst _ => i.wellFormed && s.onCtrl inst fun x => decide (x.cstate = .running)
    | .irqDispatch inst reasons => s.onCtrl inst fun x => x.irqEnabled reasons

/-- Is the scheduled step enabled? A malformed host command is answered, a malformed event is not a step (R71). -/
def State.enablesSlot (s : State) : Slot → Bool
  | .word w =>
    match decode w with
    | .ok i => s.enables i
    | .error .notAStep => false
    | .error _ => !s.fault
  | .pollDone inst => !s.fault && s.onCtrl inst Controller.pollReady
  | .deqResume inst => !s.fault && s.onCtrl inst Controller.deqReady

/-- Does the RxTask become held by issuing this word: a CHAN_DEQ on an empty channel (45_channel.md R125)? It has no step then,
but a script goes on from there (95_test_vectors.md section 11, P1 step 16). -/
def State.holdsSlot (s : State) : Slot → Bool
  | .word w =>
    match decode w with
    | .ok (.chanDeq inst) => !s.fault && s.onCtrl inst fun x => !x.rxWait && decide (x.chan = [])
    | _ => false
  | .pollDone _ | .deqResume _ => false

/-- The instance a scheduled step names: the word's `inst` field, but none for TICK (R144 (a)). -/
def Slot.inst? : Slot → Option InstId
  | .word w =>
    match decode w with
    | .ok i => i.inst?
    | .error _ => some (instField w)
  | .pollDone inst | .deqResume inst => some inst

/-- Is the scheduled step a host command, well formed or not (30_encoding.md R71 (c))? -/
def Slot.isHostCommand : Slot → Bool
  | .word w => isHostOp (opField w)
  | .pollDone _ | .deqResume _ => false

/-! ### The invariants of R34 -/

/-- A Frame value: an identifier, a length of at most 8 and exactly that many bytes (R10, (I-a)). -/
def Frame.Valid (f : Frame) : Prop := f.len ≤ 8 ∧ f.data.length = f.len

/-- The frame an event carries, if any, is a Frame value ((I-a)); a BusTx carries the payload its code names. -/
def Event.FramesValid : Event → Prop
  | .rxCb _ _ f => f.Valid
  | .deq f => f.Valid
  | .busTx _ dlc data => data.length = dlcToLen dlc
  | .resp .. | .errCb .. | .hpCb .. | .pollDone .. => True

/-- The invariants (I-b) to (I-g) of R34 on one instance. -/
structure Controller.Ok (p : Params) (x : Controller) : Prop where
  /-- (I-b) the table has FILTER_CAPACITY entries -/
  filtersLength : x.filters.length = p.filterCapacity
  /-- (I-b) -/
  nextSlotLe : x.nextSlot ≤ p.filterCapacity
  /-- (I-b) an entry is Some exactly below `next_slot` -/
  filtersUsed : ∀ k, k < p.filterCapacity → (x.filters.getD k none).isSome = decide (k < x.nextSlot)
  /-- (I-c) -/
  rxqBound : ∀ q, (x.rxq q).length ≤ p.rxqDepth
  /-- (I-c) -/
  txqBound : x.txq.length ≤ p.txqDepth
  /-- (I-c) -/
  chanBound : x.chan.length ≤ p.chanCapacity
  /-- (I-d) -/
  clearWhenUninitialized : x.cstate = .uninitialized →
    (∀ k, x.filters.getD k none = none) ∧ x.nextSlot = 0 ∧ x.rxq0 = [] ∧ x.rxq1 = [] ∧ x.txq = [] ∧ x.irqEnable = 0 ∧
      x.irqPending = 0 ∧ x.hpStatus.valid = false ∧ x.rxLost0 = false ∧ x.rxLost1 = false ∧ x.poll = none
  /-- (I-e) -/
  quietWhenNotRunning : x.cstate ≠ .running →
    x.rxq0 = [] ∧ x.rxq1 = [] ∧ x.txq = [] ∧ x.irqPending = 0 ∧ x.poll = none
  /-- (I-f) -/
  configuredHoldsValues : x.cstate ≠ .uninitialized →
    ∃ bt a, x.bt = some bt ∧ x.defaultAction = some a ∧ btLegal p bt.timing = true
  /-- (I-g) -/
  txqCodes : ∀ e ∈ x.txq, (elemDlc e).toNat ≤ 8
  /-- (I-g) -/
  chanLengths : ∀ c ∈ x.chan, (elemDlc c).toNat ≤ 8

/-- The invariants of R34 on the block; `fault` is clear, since no rule sets it (R22). -/
structure State.Ok (s : State) : Prop where
  noFault : s.fault = false
  ctrls : ∀ x ∈ s.ctrls, x.Ok s.params
  /-- (I-a) -/
  frames : ∀ t ∈ s.trace, t.event.FramesValid

/-- An element whose reserved bits and unused payload room are 0 (30_encoding.md R57, 93 U16). -/
def Elem.Canonical (e : Elem) : Prop :=
  encodeElem (elemId e) (elemDlc e) (payload (elemData e) (dlcToLen (elemDlc e))) = e

/-- What the rules keep beyond R34: reserved bits (U16), the receive bits of `irq_pending` (R18), the high-priority enable
(R136), a latched HP_MSG with its descriptor (R116), non-zero handlers (R25), and a held poll only on a queue whose receive
interrupt is off, with at least one tick left (R118, R151). -/
structure Controller.Tidy (x : Controller) : Prop where
  rxqCanonical : ∀ q, ∀ e ∈ x.rxq q, Elem.Canonical e
  txqCanonical : ∀ e ∈ x.txq, Elem.Canonical e
  chanCanonical : ∀ e ∈ x.chan, Elem.Canonical e
  pendingReceiveBits : x.irqPending &&& rxMask = 0
  hpEnable : decide (x.irqEnable &&& hpMask ≠ 0) = decide (x.irqEnable &&& rxMask ≠ 0)
  hpDescribed : x.irqPending &&& hpMask ≠ 0 → x.hpStatus.valid = true
  rxHandlers : ∀ q h, x.cbRx q = some h → h ≠ 0
  errHandler : ∀ h, x.cbErr = some h → h ≠ 0
  hpHandler : ∀ h, x.cbHp = some h → h ≠ 0
  pollAlone : ∀ h, x.poll = some h → 1 ≤ h.remaining ∧ x.rxIrqEnabled h.queue = false

/-- `Controller.Tidy` on every instance. -/
def State.Tidy (s : State) : Prop := ∀ x ∈ s.ctrls, x.Tidy

/-- What the acceptance filter makes of an instance that a data frame reaches (44_datapath.md R116), verdict by verdict: `Classify`
decides the queue and the slot, `storeFrame` appends the element or marks the loss. -/
def Controller.Receives (p : Params) (id : CanId) (dlc : Dlc) (data : List Byte) (x y : Controller) : Prop :=
  (∃ slot, x.classify id = .decided .discard slot ∧ y = x) ∨
  (∃ q slot, x.classify id = .decided (.store q false) slot ∧ y = (x.storeFrame p id dlc data q).1) ∨
  (∃ q k, x.classify id = .decided (.store q true) (some k) ∧ y = { (x.storeFrame p id dlc data q).1 with
    hpStatus := ⟨true, k, q, (x.storeFrame p id dlc data q).2⟩, irqPending := x.irqPending ||| 0x04 })

/-- The acceptance filter finds an invariant of R34 violated while it classifies `id`: an empty slot below `next_slot` before any
match (I-b), or no match and no default action (I-f). -/
def Controller.Violates (x : Controller) (id : CanId) : Prop :=
  (∃ k, k < x.nextSlot ∧ x.filters[k]? = some none ∧
    ∀ j, j < k → ∃ r, x.filters[j]? = some (some r) ∧ r.matchesId id = false) ∨
  ((∀ j, j < x.nextSlot → ∃ r, x.filters[j]? = some (some r) ∧ r.matchesId id = false) ∧ x.defaultAction = none)

/-! ### What one dispatcher call does, for the laws (60_exceptions.md R139) -/

/-- The extractions of one dispatcher call from queue `q` and then from queue `r`, each where its reason is given. -/
def Controller.extractBoth (p : Params) (m : Reasons) (q r : QueueId) (x : Controller) : Controller :=
  let y := if m.getLsbD q.code then (x.extractOne p q).1 else x
  if m.getLsbD r.code then (y.extractOne p r).1 else y

/-- The events of one block of a dispatcher call on an instance that was `x` at entry. -/
def Controller.blockEvents (p : Params) (m : Reasons) (x : Controller) : ReasonClass → List Event
  | .rxq0 => if m.getLsbD 0 then (x.extractOne p .q0).2 else []
  | .rxq1 => if m.getLsbD 1 then (x.extractOne p .q1).2 else []
  | .err => if m &&& 0x38 ≠ 0 then x.cbErr.toList.map fun h => .errCb h m else []
  | .hp => if m &&& 0x04 ≠ 0 then x.cbHp.toList.map fun h => .hpCb h x.hpStatus else []

/-! ### The tests every host command begins with (43_controller.md R103), as clauses of claims -/

/-- A scheduled word with this op and a bad bit answers InvalidArgument and changes nothing else (R103 (1)). -/
def MalformedAnswered (op : OpCode) (bad : StepWord → Prop) : Prop :=
  ∀ (s : State) (w : StepWord) (rest : List Slot), s.fault = false → s.schedule = .word w :: rest → opField w = op →
    bad w → step s = .next ({ s with schedule := rest }.emit (instField w) [.resp op .invalidArgument])

/-- The command answers Error on an unknown instance and changes nothing else (R103 (2)). -/
def UnknownAnswered (op : OpCode) (cmd : InstId → Instr) : Prop :=
  ∀ (s : State) (inst : InstId), s.ctrl? inst = none → exec (cmd inst) s = .next (s.emit inst [.resp op .error])

/-! ### Sequences of steps, for the laws -/

/-- The steps of a list one after the other, stopping at the first that does not answer a next state. -/
def execAll : List Instr → State → Host.Outcome State Fault Refusal
  | [], s => .next s
  | i :: rest, s =>
    match exec i s with
    | .next t => execAll rest t
    | .fault r => .fault r
    | .refused r => .refused r

/-- An access to the channel: an enqueue by the producer or a dequeue by the consumer (45_channel.md R127). -/
inductive ChanOp where
  | enq (f : Frame)
  | deq
  deriving DecidableEq, Repr

/-- The frames the operations enqueue, in order. -/
def ChanOp.enqueued : List ChanOp → List Frame
  | [] => []
  | .enq f :: rest => f :: ChanOp.enqueued rest
  | .deq :: rest => ChanOp.enqueued rest

/-- The frames the events hand to the consumer, in order. -/
def Event.dequeued : List Event → List Frame
  | [] => []
  | .deq f :: rest => f :: Event.dequeued rest
  | _ :: rest => Event.dequeued rest

/-- The channel operations on an instance one after the other, with the frames the consumer received; none when an enqueue
finds the channel full. A dequeue is the consumer's, issued or resumed after a hold. -/
def chanRun (p : Params) : List ChanOp → Controller → Option (Controller × List Frame)
  | [], x => some (x, [])
  | .enq f :: rest, x => if x.chan.length < p.chanCapacity then chanRun p rest (x.chanEnqueue p f) else none
  | .deq :: rest, x =>
    match x.takeOldest with
    | .done y evs => (chanRun p rest y).map fun r => (r.1, Event.dequeued evs ++ r.2)
    | .fatal => none
    | .refused _ => none

/-- Is the event a command's response? -/
def Event.isResponse : Event → Bool
  | .resp .. => true
  | .rxCb .. | .errCb .. | .hpCb .. | .busTx .. | .deq .. | .pollDone .. => false

/-! ### Reachable states, runs, fairness, final states -/

/-- The states that steps reach from power-on with `n` instances, the outside world scheduling whatever it likes. -/
inductive Reachable (p : Params) (n : Nat) : State → Prop where
  | powerOn : Reachable p n (State.powerOn p n)
  | offer {s : State} (slot : Slot) : Reachable p n s → Reachable p n { s with schedule := s.schedule ++ [slot] }
  | step {s t : State} : Reachable p n s → Sys2Proof.Machine.step s = .next t → Reachable p n t

/-- A run: at each instant one enabled step is taken, whichever the schedule chooses (R130), or the RxTask issues a CHAN_DEQ that
is held. -/
def IsRun (r : Nat → State) (chosen : Nat → Slot) : Prop :=
  ∀ k, ((r k).enablesSlot (chosen k) = true ∨ (r k).holdsSlot (chosen k) = true) ∧
    step { r k with schedule := [chosen k] } = .next (r (k + 1))

/-- The steps to which weak fairness applies: those of the block's own agents and the RxTask's dequeue, which the state alone
enables. The other host commands and the environment are free (R129, log 14). -/
inductive OwnStep where
  | transmit (inst : InstId)
  | dispatch (inst : InstId)
  | pollDone (inst : InstId)
  | dequeue (inst : InstId)
  | tick
  deriving DecidableEq, Repr

/-- Does the state enable the own step? The dequeue is enabled exactly while the channel of the instance is not empty, its
CHAN_DEQ held or not (R125, R129). -/
def OwnStep.enabledIn (a : OwnStep) (s : State) : Bool :=
  match a with
  | .transmit inst => s.enables (.txXmit inst)
  | .dispatch inst => !s.fault && s.onCtrl inst fun x => decide (x.cstate = .running) && decide (x.irqLines ≠ 0)
  | .pollDone inst => s.enablesSlot (.pollDone inst)
  | .dequeue inst => !s.fault && s.onCtrl inst fun x => decide (x.chan ≠ [])
  | .tick => s.enables .tick

/-- Is the scheduled step the own step? -/
def OwnStep.isTakenBy (a : OwnStep) (slot : Slot) : Bool :=
  match slot, a with
  | .pollDone i, .pollDone inst => decide (i = inst)
  | .deqResume i, .dequeue inst => decide (i = inst)
  | .word w, a =>
    match decode w, a with
    | .ok (.txXmit i), .transmit inst => decide (i = inst)
    | .ok (.irqDispatch i _), .dispatch inst => decide (i = inst)
    | .ok (.chanDeq i), .dequeue inst => decide (i = inst)
    | .ok .tick, .tick => true
    | _, _ => false
  | _, _ => false

/-- Weak fairness: a step that stays enabled is eventually taken (R130). -/
def WeaklyFair (r : Nat → State) (chosen : Nat → Slot) : Prop :=
  ∀ (a : OwnStep) (n : Nat), (∀ m, n ≤ m → a.enabledIn (r m) = true) → ∃ m, n ≤ m ∧ a.isTakenBy (chosen m) = true

/-- The state at the end of a run of a finite script (70_reset_and_hazards.md R150): no host command left to issue, no poll held,
no dequeue that could go on, no fault, and no TX_XMIT, dispatch or poll completion enabled. A CHAN_DEQ held on an empty channel
and words of the environment and of time that are still scheduled do not matter. -/
def State.Final (s : State) : Prop :=
  (∀ slot ∈ s.schedule, slot.isHostCommand = false) ∧ s.fault = false ∧
    ∀ x ∈ s.ctrls, x.poll = none ∧ x.deqReady = false ∧ x.txEnabled = false ∧ (x.cstate = .running → x.irqLines = 0) ∧
      x.pollReady = false

end Sys2Proof.Machine
end

