-- ==== Sys2Proof/Certificates/Slice0/Obligations.lean ====
section
/-! DEFINITION. The statements for the provers, from the numbered rules of spec/. -/

open Sys2Proof Sys2Proof.Machine

/-! ### Encoding and the step -/

/-- Decoding the encoding of a well-formed step gives the step back, for every operand value (30_encoding.md R61 to R70). -/
def Obligations.DecodeOfEncode : Prop :=
  ∀ i : Instr, WellFormed i → decode (encode i) = .ok i

/-- A word that decodes to a step is that step's encoding: no bit of a decoded word is ignored (R61 to R71). -/
def Obligations.EncodeOfDecode : Prop :=
  ∀ (w : StepWord) (i : Instr), decode w = .ok i → encode i = w

/-- Step words of 95_test_vectors.md section 5 stand for the steps written beside them there. -/
def Obligations.SpecWordsDecode : Prop :=
  decode 0x100001008B0014001402030000000000#128 = .ok (.init 0 1 139 20 20 2 0x03) ∧
  decode 0x20020402000700000000000000000000#128 = .ok (.addFilter 0 2 4 0x200 0x700) ∧
  decode 0x31000000000000000000000000000000#128 = .ok (.start 1) ∧
  decode 0x400123030000000000CCBBAA00000000#128 = .ok (.send 0 0x123 3 0xCCBBAA) ∧
  decode 0x60010000B00000000000000000000000#128 = .ok (.regRxCb 0 1 0xB000) ∧
  decode 0x90010000000500000000000000000000#128 = .ok (.pollRx 0 1 5) ∧
  decode 0xA103210C020304050607080900000000#128 = .ok (.busRx 1 0x321 12 0x0203040506070809 0) ∧
  decode 0xC0210000000000000000000000000000#128 = .ok (.irqDispatch 0 0x21) ∧
  decode 0xD1380000000000000000000000000000#128 = .ok (.busStatus 1 0x38) ∧
  decode 0xF1000000000000000000000000000000#128 = .ok (.chanDeq 1)

/-- A step runs the decoded instruction: the scheduled word leaves the schedule and its instruction is executed. The two
internal steps, the idle block and the halted block are said too (60_exceptions.md R130, 10_state.md R22; the schedule is the
model's choice, log 1). -/
def Obligations.StepRunsScheduledStep : Prop :=
  ∀ (s : State),
    (s.fault = true → step s = .fault .halted) ∧
    (s.fault = false → s.schedule = [] → step s = .next s) ∧
    (∀ w rest i, s.fault = false → s.schedule = .word w :: rest → decode w = .ok i →
      step s = exec i { s with schedule := rest }) ∧
    (∀ inst rest, s.fault = false → s.schedule = .pollDone inst :: rest →
      step s = .next (execPollDone inst { s with schedule := rest })) ∧
    (∀ inst rest, s.fault = false → s.schedule = .deqResume inst :: rest →
      step s = execDeqResume inst { s with schedule := rest })

/-- Every host command begins with the same two tests, malformed word and then unknown instance (43_controller.md R103).
A word with op 0x0 counts as a host command (R71 (c)). -/
def Obligations.CommonTestsOfHostCommands : Prop :=
  (∀ (s : State) (w : StepWord) (rest : List Slot), s.fault = false → s.schedule = .word w :: rest →
    isHostOp (opField w) = true → (∀ i, encode i ≠ w) →
      step s = .next ({ s with schedule := rest }.emit (instField w) [.resp (opField w) .invalidArgument])) ∧
  (∀ (s : State) (i : Instr) (inst : InstId), i.isHostCommand = true → i.inst? = some inst → s.ctrl? inst = none →
    exec i s = .next (s.emit inst [.resp i.opcode .error]))

/-- An event word that is malformed, breaks its format's constraints or names no instance is not a step
(30_encoding.md R71 (d)). -/
def Obligations.IllFormedEventIsNoStep : Prop :=
  (∀ (s : State) (w : StepWord) (rest : List Slot), s.fault = false → s.schedule = .word w :: rest →
    isHostOp (opField w) = false → (∀ i, WellFormed i → encode i ≠ w) → step s = .refused .notAStep) ∧
  (∀ (s : State) (i : Instr), ¬ WellFormed i → exec i s = .refused .notAStep) ∧
  (∀ (s : State) (i : Instr) (inst : InstId), i.isHostCommand = false → i.inst? = some inst → s.ctrl? inst = none →
    exec i s = .refused .notAStep)

/-- A well-formed event of a known instance that is not enabled does not happen: the state is unchanged. A CHAN_DEQ that is
held changes nothing but the model's record that the RxTask waits, and a further one while it waits is a second consumer's and
refused (60_exceptions.md R129, 70_reset_and_hazards.md R156; logs 5 and 8). -/
def Obligations.DisabledStepDoesNothing : Prop :=
  ∀ (s : State) (i : Instr), s.fault = false → s.enables i = false →
    (∀ inst x, i.inst? = some inst → s.ctrl? inst = some x → i.isHostCommand = false → WellFormed i → exec i s = .next s) ∧
    (∀ inst, i = .chanDeq inst → ∃ x, s.ctrl? inst = some x ∧
      ((x.rxWait = false ∧ x.chan = [] ∧ exec i s = .next (s.commit inst { x with rxWait := true } [])) ∨
        (x.rxWait = true ∧ exec i s = .refused .secondConsumer)))

/-! ### Reset and invariants -/

/-- The power-on values of 10_state.md R35, where it gives one, on both default instances. -/
def Obligations.PowerOnValues : Prop :=
  State.reset.ctrls.length = 2 ∧ State.reset.fault = false ∧ State.reset.trace = [] ∧
  (∀ x ∈ State.reset.ctrls,
    x.cstate = .uninitialized ∧ x.bt = none ∧ x.defaultAction = none ∧ x.irqEnable = 0 ∧ x.irqPending = 0 ∧
    x.hpStatus.valid = false ∧ x.rxLost0 = false ∧ x.rxLost1 = false ∧ x.filters = List.replicate 28 none ∧
    x.nextSlot = 0 ∧ x.cbRx0 = none ∧ x.cbRx1 = none ∧ x.cbErr = none ∧ x.cbHp = none ∧
    x.rxq0 = [] ∧ x.rxq1 = [] ∧ x.txq = [] ∧ x.chan = [] ∧ x.chanDrops = 0 ∧ x.poll = none) ∧
  (∀ i : Instr, State.reset.enables i = true → i.isHostCommand = true ∨ i = .tick)

/-- What the reset state enables and answers (70_reset_and_hazards.md R148), on instances 0 and 1. -/
def Obligations.ResetStateAnswers : Prop :=
  ∀ inst : InstId, inst.toNat < 2 →
    (∀ k a i1 i2, exec (.addFilter inst k a i1 i2) State.reset =
      .next (State.reset.emit inst [.resp 0x2 .notInitialized])) ∧
    exec (.start inst) State.reset = .next (State.reset.emit inst [.resp 0x3 .notInitialized]) ∧
    (∀ id len d, exec (.send inst id len d) State.reset = .next (State.reset.emit inst [.resp 0x4 .notInitialized])) ∧
    exec (.stop inst) State.reset = .next (State.reset.emit inst [.resp 0x5 .notInitialized]) ∧
    (∀ q t, exec (.pollRx inst q t) State.reset = .next (State.reset.emit inst [.resp 0x9 .notInitialized])) ∧
    (∀ id dlc d r, State.reset.enables (.busRx inst id dlc d r) = false) ∧
    State.reset.enables (.txXmit inst) = false ∧
    (∀ m, State.reset.enables (.busStatus inst m) = false) ∧
    (∀ m, State.reset.enables (.irqDispatch inst m) = false) ∧
    State.reset.enables (.chanDeq inst) = false ∧
    State.reset.enables .tick = true ∧ exec .tick State.reset = .next State.reset ∧
    (∀ i : Instr, i.isHostCommand = true → i.inst? = some inst → i.opcode ≠ 0xF → State.reset.enables i = true) ∧
    (∀ h, exec (.regRxCb inst 0 h) State.reset = .next (State.reset.commit inst
      { Controller.powerOn Params.defaults with cbRx0 := if h = 0 then none else some h } [.resp 0x6 .ok])) ∧
    (∀ h, exec (.regErrCb inst h) State.reset = .next (State.reset.commit inst
      { Controller.powerOn Params.defaults with cbErr := if h = 0 then none else some h } [.resp 0x7 .ok])) ∧
    (∀ h, exec (.regHpCb inst h) State.reset = .next (State.reset.commit inst
      { Controller.powerOn Params.defaults with cbHp := if h = 0 then none else some h } [.resp 0x8 .ok])) ∧
    exec (.init inst 1 139 20 20 2 0x03) State.reset =
      .next (State.reset.commit inst { Controller.powerOn Params.defaults with
        cstate := .configured, bt := some ⟨1, 139, 20, 20⟩, defaultAction := some .rejectAll, irqEnable := 0x07 }
        [.resp 0x1 .ok])

/-- Power-on meets the invariants, with any parameters and any number of instances (10_state.md R34, R35). -/
def Obligations.PowerOnMeetsInvariants : Prop :=
  ∀ (p : Params) (n : Nat), (State.powerOn p n).Ok ∧ (State.powerOn p n).Tidy

/-- Every step keeps the invariants of 10_state.md R34, from every state that has them. -/
def Obligations.StepKeepsInvariants : Prop :=
  ∀ s t : State, s.Ok → step s = .next t → t.Ok

/-- Every step keeps reserved bits 0, the receive bits of `irq_pending` 0, the high-priority enable tied to the receive
enables, HP_MSG described, handlers non-zero and a held poll alone on its queue (30_encoding.md section 2 and 93 U16,
10_state.md R18, R25, 60_exceptions.md R136, 70_reset_and_hazards.md R151). -/
def Obligations.StepKeepsTidiness : Prop :=
  ∀ s t : State, s.Ok → s.Tidy → step s = .next t → t.Tidy

/-- Every reachable state meets the invariants (10_state.md R34). -/
def Obligations.ReachableStatesMeetInvariants : Prop :=
  ∀ (p : Params) (n : Nat) (s : State), Reachable p n s → s.Ok

/-- With the invariants no step finds the block halted and none takes the fatal-assertion path: the block goes on, or the step is
one that the spec refuses (10_state.md R22, R34; what takes that path is log 9). -/
def Obligations.InvariantsExcludeFaults : Prop :=
  ∀ s : State, s.Ok → (∃ t, step s = .next t ∧ t.fault = false) ∨
    ∃ r, step s = .refused r ∧ (r = .notAStep ∨ r = .pollOnInterruptQueue ∨ r = .secondConsumer)

/-- No step changes the parameters or the number of instances, and the output trace only grows
(10_state.md R12, R32, R33). -/
def Obligations.ParametersFixedTraceGrows : Prop :=
  ∀ s t : State, step s = .next t →
    t.params = s.params ∧ t.ctrls.length = s.ctrls.length ∧ ∃ evs, t.trace = s.trace ++ evs

/-- A step that names one instance, a word or an internal step, leaves every other instance as it is and emits only for its own;
two steps that name different instances commute (60_exceptions.md R144 (a); the tags of the one trace are log 7). -/
def Obligations.InstancesAreIsolated : Prop :=
  (∀ (s t : State) (slot : Slot) (inst : InstId), slot.inst? = some inst → runSlot slot s = .next t →
    (∀ k, k ≠ inst.toNat → t.ctrls[k]? = s.ctrls[k]?) ∧ (∀ j, j ≠ inst → t.traceOf j = s.traceOf j)) ∧
  (∀ (s t : State) (i : Instr) (inst : InstId), i.inst? = some inst → exec i s = .next t →
    (∀ k, k ≠ inst.toNat → t.ctrls[k]? = s.ctrls[k]?) ∧ (∀ j, j ≠ inst → t.traceOf j = s.traceOf j)) ∧
  (∀ (s t u : State) (a b : Slot) (i j : InstId), a.inst? = some i → b.inst? = some j → i ≠ j →
    runSlot a s = .next t → runSlot b t = .next u →
    ∃ t' u', runSlot b s = .next t' ∧ runSlot a t' = .next u' ∧ u'.params = u.params ∧ u'.ctrls = u.ctrls ∧
      u'.fault = u.fault ∧ u'.schedule = u.schedule ∧ ∀ k, u'.traceOf k = u.traceOf k)

/-- Every host command emits exactly one response of its own, except a poll or a dequeue that is held, which emits nothing
(60_exceptions.md R134, 30_encoding.md R74). -/
def Obligations.OneResponsePerCommand : Prop :=
  ∀ (s t : State) (i : Instr) (inst : InstId), i.isHostCommand = true → i.inst? = some inst → exec i s = .next t →
    ∃ evs : List Event, t.trace = s.trace ++ evs.map (fun e => { inst := inst, event := e }) ∧
      ((∃ st, evs.filter Event.isResponse = [.resp i.opcode st]) ∨
        (evs = [] ∧ ∃ x, t.ctrl? inst = some x ∧
          ((∃ q n, i = .pollRx inst q n ∧ x.poll ≠ none) ∨ (i = .chanDeq inst ∧ x.rxWait = true))))

/-! ### The lifecycle -/

/-- The laws of the lifecycle (43_controller.md R112): (a) what changes `cstate`; (b) SEND and POLL_RX outside Running answer a
NotStarted-class error and change nothing else, and no dispatch is enabled there, so that one offered there leaves the state
unchanged (that answer to an offer is the model's choice, log 5); (c) only host commands change the configuration. -/
def Obligations.LifecycleLaws : Prop :=
  (∀ (s t : State) (slot : Slot) (rest : List Slot) (k : Nat) (x y : Controller),
    s.schedule = slot :: rest → step s = .next t → s.ctrls[k]? = some x → t.ctrls[k]? = some y →
      (y.cstate ≠ x.cstate → ∃ w i inst, slot = .word w ∧ decode w = .ok i ∧ i.inst? = some inst ∧ inst.toNat = k ∧
        ((i.opcode = 0x1 ∧ (y.cstate = .configured ∨ y.cstate = .uninitialized)) ∨
          (i.opcode = 0x3 ∧ x.cstate = .configured ∧ y.cstate = .running) ∨
          (i.opcode = 0x5 ∧ x.cstate = .running ∧ y.cstate = .uninitialized))) ∧
      ((∀ w i, slot = .word w → decode w = .ok i → i.isHostCommand = false) →
        y.cstate = x.cstate ∧ y.bt = x.bt ∧ y.defaultAction = x.defaultAction ∧ y.irqEnable = x.irqEnable ∧
        y.filters = x.filters ∧ y.nextSlot = x.nextSlot ∧ y.cbRx0 = x.cbRx0 ∧ y.cbRx1 = x.cbRx1 ∧
        y.cbErr = x.cbErr ∧ y.cbHp = x.cbHp)) ∧
  (∀ (s : State) (inst : InstId) (x : Controller), s.ctrl? inst = some x → x.cstate ≠ .running →
    (∀ id len d, ∃ st, (st = .notInitialized ∨ st = .notStarted) ∧
      exec (.send inst id len d) s = .next (s.emit inst [.resp 0x4 st])) ∧
    (∀ q n, ∃ st, (st = .notInitialized ∨ st = .notStarted) ∧
      exec (.pollRx inst q n) s = .next (s.emit inst [.resp 0x9 st])) ∧
    (∀ m, s.enables (.irqDispatch inst m) = false ∧ exec (.irqDispatch inst m) s = .next s))

/-- INIT (43_controller.md R106). One rejected for its default action has written `bt`, as R106's pseudocode and
95_test_vectors.md section 6 have it, or not, as 10_state.md R15 has it; which of the two is a parameter of the model
(DESIGN CHOICE, log 23). -/
def Obligations.InitConfiguresInstance : Prop :=
  MalformedAnswered 0x1 (fun w => w.extractLsb' 0 40 ≠ 0 ∨ w.extractLsb' 46 2 ≠ 0) ∧
  (∀ p t1 t2 j a m, UnknownAnswered 0x1 fun inst => .init inst p t1 t2 j a m) ∧
  ∀ (s : State) (inst : InstId) (x : Controller) (p t1 t2 j : BitVec 16) (a : BitVec 8) (m : Reasons),
    s.ctrl? inst = some x →
    (x.cstate = .running →
      exec (.init inst p t1 t2 j a m) s = .next (s.emit inst [.resp 0x1 .alreadyInitialized])) ∧
    (x.cstate ≠ .running → btLegal s.params ⟨p.toNat, t1.toNat, t2.toNat, j.toNat⟩ = false →
      exec (.init inst p t1 t2 j a m) s =
        .next (s.commit inst { x.hwReset s.params with cstate := .uninitialized } [.resp 0x1 .error])) ∧
    (x.cstate ≠ .running → btLegal s.params ⟨p.toNat, t1.toNat, t2.toNat, j.toNat⟩ = true → 2 < a.toNat →
      (s.params.btWrite = .beforeAction → exec (.init inst p t1 t2 j a m) s =
        .next (s.commit inst { x.hwReset s.params with cstate := .uninitialized, bt := some ⟨p, t1, t2, j⟩ }
          [.resp 0x1 .error])) ∧
      (s.params.btWrite = .onSuccess → exec (.init inst p t1 t2 j a m) s =
        .next (s.commit inst { x.hwReset s.params with cstate := .uninitialized } [.resp 0x1 .error]))) ∧
    (∀ d : DefaultAction,
      x.cstate ≠ .running → btLegal s.params ⟨p.toNat, t1.toNat, t2.toNat, j.toNat⟩ = true → a.toNat = d.code →
      exec (.init inst p t1 t2 j a m) s =
        .next (s.commit inst { x.hwReset s.params with
            cstate := .configured, bt := some ⟨p, t1, t2, j⟩, defaultAction := some d,
            irqEnable := (m &&& 0x3B) ||| (if m &&& 0x03 ≠ 0 then 0x04 else 0) } [.resp 0x1 .ok]))

/-- START (43_controller.md R107). -/
def Obligations.StartEntersRunning : Prop :=
  MalformedAnswered 0x3 (fun w => w.extractLsb' 0 120 ≠ 0) ∧ UnknownAnswered 0x3 .start ∧
  ∀ (s : State) (inst : InstId) (x : Controller), s.ctrl? inst = some x →
    (x.cstate = .uninitialized → exec (.start inst) s = .next (s.emit inst [.resp 0x3 .notInitialized])) ∧
    (x.cstate = .configured →
      exec (.start inst) s = .next (s.commit inst { x with cstate := .running } [.resp 0x3 .ok])) ∧
    (x.cstate = .running → exec (.start inst) s = .next (s.emit inst [.resp 0x3 .ok]))

/-- STOP (43_controller.md R108). -/
def Obligations.StopReleasesInstance : Prop :=
  MalformedAnswered 0x5 (fun w => w.extractLsb' 0 120 ≠ 0) ∧ UnknownAnswered 0x5 .stop ∧
  ∀ (s : State) (inst : InstId) (x : Controller), s.ctrl? inst = some x →
    (x.cstate = .uninitialized → exec (.stop inst) s = .next (s.emit inst [.resp 0x5 .notInitialized])) ∧
    (x.cstate = .configured → exec (.stop inst) s = .next (s.emit inst [.resp 0x5 .notStarted])) ∧
    (x.cstate = .running → ∃ evs,
      (x.poll = none → evs = [.resp 0x5 .ok]) ∧ (x.poll ≠ none → evs = [.pollDone .notStarted, .resp 0x5 .ok]) ∧
      exec (.stop inst) s = .next (s.commit inst { x.hwReset s.params with
        cbRx0 := none, cbRx1 := none, cbErr := none, cbHp := none, cstate := .uninitialized } evs))

/-- The instance reset clears exactly the fields of its list (43_controller.md R105). -/
def Obligations.HwResetClearsItsList : Prop :=
  ∀ (p : Params) (x : Controller),
    (∀ k, k < p.filterCapacity → (x.hwReset p).filters[k]? = some none) ∧ (x.hwReset p).filters.length = p.filterCapacity ∧
    ∃ fs, x.hwReset p = { x with
      filters := fs, nextSlot := 0, rxq0 := [], rxq1 := [], txq := [], irqEnable := 0, irqPending := 0,
      hpStatus := ⟨false, x.hpStatus.slot, x.hpStatus.queue, x.hpStatus.stored⟩, rxLost0 := false, rxLost1 := false,
      poll := none }

/-- REG_RX_CB (43_controller.md R109). -/
def Obligations.RegisterReceiveCallback : Prop :=
  MalformedAnswered 0x6 (fun w => w.extractLsb' 0 80 ≠ 0) ∧
  (∀ q h, UnknownAnswered 0x6 fun inst => .regRxCb inst q h) ∧
  ∀ (s : State) (inst : InstId) (x : Controller) (q : BitVec 8) (h : Handler), s.ctrl? inst = some x →
    (1 < q.toNat → exec (.regRxCb inst q h) s = .next (s.emit inst [.resp 0x6 .invalidArgument])) ∧
    (q = 0 → exec (.regRxCb inst q h) s =
      .next (s.commit inst { x with cbRx0 := if h = 0 then none else some h } [.resp 0x6 .ok])) ∧
    (q = 1 → exec (.regRxCb inst q h) s =
      .next (s.commit inst { x with cbRx1 := if h = 0 then none else some h } [.resp 0x6 .ok]))

/-- REG_ERR_CB (43_controller.md R110). -/
def Obligations.RegisterErrorCallback : Prop :=
  MalformedAnswered 0x7 (fun w => w.extractLsb' 0 80 ≠ 0 ∨ w.extractLsb' 112 8 ≠ 0) ∧
  (∀ h, UnknownAnswered 0x7 fun inst => .regErrCb inst h) ∧
  ∀ (s : State) (inst : InstId) (x : Controller) (h : Handler), s.ctrl? inst = some x →
    exec (.regErrCb inst h) s = .next (s.commit inst { x with cbErr := if h = 0 then none else some h } [.resp 0x7 .ok])

/-- REG_HP_CB (43_controller.md R111). -/
def Obligations.RegisterHpCallback : Prop :=
  MalformedAnswered 0x8 (fun w => w.extractLsb' 0 80 ≠ 0 ∨ w.extractLsb' 112 8 ≠ 0) ∧
  (∀ h, UnknownAnswered 0x8 fun inst => .regHpCb inst h) ∧
  ∀ (s : State) (inst : InstId) (x : Controller) (h : Handler), s.ctrl? inst = some x →
    exec (.regHpCb inst h) s = .next (s.commit inst { x with cbHp := if h = 0 then none else some h } [.resp 0x8 .ok])

/-! ### The frame codec -/

/-- `DlcToLen` and `LenToDlc` with their law (40_frame_codec.md R76, R77). That the codes above 8 mean 8 bytes is PRESUMED in the spec
itself (log 16). -/
def Obligations.LengthCodes : Prop :=
  (∀ d : Dlc, (d.toNat ≤ 8 → dlcToLen d = d.toNat) ∧ (8 < d.toNat → dlcToLen d = 8)) ∧
  (∀ n, n ≤ 8 → (lenToDlc n).toNat = n ∧ dlcToLen (lenToDlc n) = n) ∧
  (∀ d : Dlc, lenToDlc (dlcToLen d) = d ↔ d.toNat ≤ 8)

/-- The layout `EncodeElem` gives an element (40_frame_codec.md R78). -/
def Obligations.ElementLayout : Prop :=
  ∀ (id : CanId) (dlc : Dlc) (data : List Byte), data.length = dlcToLen dlc →
    (encodeElem id dlc data).extractLsb' 0 11 = id ∧ (encodeElem id dlc data).extractLsb' 11 5 = 0#5 ∧
    (encodeElem id dlc data).extractLsb' 16 4 = dlc ∧ (encodeElem id dlc data).extractLsb' 20 12 = 0#12 ∧
    ∀ k, k < 8 → (encodeElem id dlc data).extractLsb' (32 + 8 * k) 8 = if k < dlcToLen dlc then data.getD k 0 else 0

/-- Elements and channel entries give back what was packed into them (40_frame_codec.md, the laws of R79, R80, R82). -/
def Obligations.ElementRoundTrip : Prop :=
  (∀ (id : CanId) (dlc : Dlc) (data : List Byte), data.length = dlcToLen dlc →
    decodeElem (encodeElem id dlc data) = (id, dlc, data)) ∧
  (∀ (id : CanId) (len : Nat) (data : List Byte), len ≤ 8 → data.length = len →
    frameOfElem (encodeElem id (lenToDlc len) data) = ⟨id, len, data⟩) ∧
  (∀ f : Frame, f.Valid → decodeChan (encodeChan f) = f) ∧
  (∀ e : Elem, (frameOfElem e).Valid ∧ (decodeChan e).Valid)

/-- The serial body has 18 + 8n bits, parses back, and is refused with RTR or IDE set or with another length
(40_frame_codec.md R83). The whole serial layout is PRESUMED in the spec itself (log 16). -/
def Obligations.SerialBodyRoundTrip : Prop :=
  (∀ (id : CanId) (dlc : Dlc) (data : List Byte), data.length = dlcToLen dlc →
    (serialBody id dlc data).length = 18 + 8 * dlcToLen dlc ∧
    parseSerialBody (serialBody id dlc data) = some (id, dlc, data)) ∧
  (∀ bits : List Bool, bits.getD 11 false = true ∨ bits.getD 12 false = true → parseSerialBody bits = none) ∧
  (∀ (bits : List Bool) (id : CanId) (dlc : Dlc) (data : List Byte), parseSerialBody bits = some (id, dlc, data) →
    bits.length = 18 + 8 * dlcToLen dlc ∧ data.length = dlcToLen dlc)

/-- The packed filter table entry and the packed high-priority descriptor (30_encoding.md R59, R60). -/
def Obligations.PackedRegisterForms : Prop :=
  (∀ r : FilterRule, r.packed.extractLsb' 0 11 = r.id2 ∧ r.packed.extractLsb' 11 5 = 0#5 ∧
    r.packed.extractLsb' 16 11 = r.id1 ∧ (r.packed.extractLsb' 27 3).toNat = r.action.code ∧
    (r.packed.extractLsb' 30 2).toNat = r.kind.code) ∧
  (∀ d : HpStatus, d.slot < 28 → (d.packed.extractLsb' 0 5).toNat = d.slot ∧
    (d.packed.extractLsb' 5 1).toNat = d.queue.code ∧ d.packed.getLsbD 6 = d.stored ∧ d.packed.getLsbD 7 = d.valid)

/-! ### Bit timing -/

/-- `BtLegal` (41_bit_timing.md R89). -/
def Obligations.BtLegalRanges : Prop :=
  ∀ (p : Params) (bt : BitTiming), btLegal p bt = true ↔
    (1 ≤ bt.prescaler ∧ bt.prescaler ≤ p.prescMax) ∧ (1 ≤ bt.ts1 ∧ bt.ts1 ≤ p.ts1Max) ∧
      (1 ≤ bt.ts2 ∧ bt.ts2 ≤ p.ts2Max) ∧ (1 ≤ bt.sjw ∧ bt.sjw ≤ p.sjwMax)

/-- Bit time and bitrate are reciprocals, and a tuple is derivable for a rate exactly when its bitrate is that rate
(41_bit_timing.md R86, R87, R88). -/
def Obligations.BitrateAndDerivability : Prop :=
  ∀ (bt : BitTiming) (clockHz rate : Nat), 0 < clockHz → 0 < bt.prescaler →
    bitTime bt clockHz * (clockHz : Rat) = ((bt.prescaler * (1 + bt.ts1 + bt.ts2) : Nat) : Rat) ∧
    bitTime bt clockHz * bitrate bt clockHz = 1 ∧
    (derivable bt clockHz rate = true ↔ bitrate bt clockHz = (rate : Rat)) ∧
    (derivable bt clockHz rate = true ↔ rate * (bt.prescaler * (1 + bt.ts1 + bt.ts2)) = clockHz)

/-- The reference quantizer meets the contract of any quantizer (41_bit_timing.md R94). -/
def Obligations.QuantizerContract : Prop :=
  ∀ (p : Params) (clockHz rate : Nat) (bt : BitTiming), 0 < clockHz → 0 < rate → 1 ≤ p.sjwMax →
    quantizeRef p clockHz rate = some bt → btLegal p bt = true ∧ derivable bt clockHz rate = true

/-! ### The acceptance filter -/

/-- The match predicates (42_filter.md R95, R96, R97, R98). That a 1 in the mask compares the bit is PRESUMED in the spec itself
(log 16). -/
def Obligations.FilterMatchPredicates : Prop :=
  ∀ (r : FilterRule) (id : CanId),
    (r.kind = .range → (r.matchesId id = true ↔ r.id1.toNat ≤ id.toNat ∧ id.toNat ≤ r.id2.toNat)) ∧
    (r.kind = .dualId → (r.matchesId id = true ↔ id = r.id1 ∨ id = r.id2)) ∧
    (r.kind = .mask → (r.matchesId id = true ↔
      ∀ b, b < 11 → r.id2.getLsbD b = true → id.getLsbD b = r.id1.getLsbD b))

/-- `Classify` (42_filter.md R99): the first matching slot decides, which is PRESUMED in the spec itself (log 16); with no match the
default action does. -/
def Obligations.ClassifyFirstMatch : Prop :=
  ∀ (x : Controller) (id : CanId),
    (∀ (k : Nat) (r : FilterRule), k < x.nextSlot → x.filters[k]? = some (some r) → r.matchesId id = true →
      (∀ j, j < k → ∃ r', x.filters[j]? = some (some r') ∧ r'.matchesId id = false) →
        (r.action = .reject → x.classify id = .decided .discard (some k)) ∧
        (r.action = .toQ0 → x.classify id = .decided (.store .q0 false) (some k)) ∧
        (r.action = .toQ1 → x.classify id = .decided (.store .q1 false) (some k)) ∧
        (r.action = .toQ0Hp → x.classify id = .decided (.store .q0 true) (some k)) ∧
        (r.action = .toQ1Hp → x.classify id = .decided (.store .q1 true) (some k))) ∧
    ((∀ j, j < x.nextSlot → ∃ r', x.filters[j]? = some (some r') ∧ r'.matchesId id = false) →
        (x.defaultAction = some .acceptQ0 → x.classify id = .decided (.store .q0 false) none) ∧
        (x.defaultAction = some .acceptQ1 → x.classify id = .decided (.store .q1 false) none) ∧
        (x.defaultAction = some .rejectAll → x.classify id = .decided .discard none))

/-- Appending a rule never changes the result for an identifier that an earlier rule matches (42_filter.md R100 (c)). It rests on
the first matching slot deciding, which is PRESUMED in the spec itself (log 16). -/
def Obligations.AppendingKeepsEarlierMatches : Prop :=
  ∀ (x : Controller) (r : FilterRule) (id : CanId) (v : Verdict) (k : Nat), x.nextSlot < x.filters.length →
    x.classify id = .decided v (some k) →
    { x with filters := x.filters.set x.nextSlot (some r), nextSlot := x.nextSlot + 1 }.classify id =
      .decided v (some k)

/-- A range rule to queue 0, a mask rule to queue 1 and default reject route a BUS_RX as 42_filter.md R100 (a) says: into [A,B] to
queue 0, under the mask and outside [A,B] to queue 1, neither: nothing changes at all. That queue 0 wins where both rules match is
the spec's own addition, and with the mask polarity and the 8 bytes of codes above 8 it is PRESUMED in the spec itself (log 16). -/
def Obligations.FilterRouting : Prop :=
  ∀ (s : State) (inst : InstId) (x : Controller) (a b xi m : CanId) (rest : List (Option FilterRule))
    (id : BitVec 16) (dlc : BitVec 8) (data : BitVec 64),
    s.ctrl? inst = some x → x.cstate = .running → isLoopback s.params inst = false → x.nextSlot = 2 →
    x.filters = some ⟨.range, .toQ0, a, b⟩ :: some ⟨.mask, .toQ1, xi, m⟩ :: rest → x.defaultAction = some .rejectAll →
    x.rxq0.length < s.params.rxqDepth → x.rxq1.length < s.params.rxqDepth → id.toNat ≤ 0x7FF → dlc.toNat ≤ 15 →
    (a.toNat ≤ id.toNat ∧ id.toNat ≤ b.toNat → ∃ e, frameOfElem e =
        ⟨id.setWidth 11, min dlc.toNat 8, payload data (min dlc.toNat 8)⟩ ∧
      exec (.busRx inst id dlc data 0) s = .next (s.commit inst { x with rxq0 := x.rxq0 ++ [e] } [])) ∧
    (¬ (a.toNat ≤ id.toNat ∧ id.toNat ≤ b.toNat) → (id.setWidth 11 : CanId) &&& m = xi &&& m → ∃ e, frameOfElem e =
        ⟨id.setWidth 11, min dlc.toNat 8, payload data (min dlc.toNat 8)⟩ ∧
      exec (.busRx inst id dlc data 0) s = .next (s.commit inst { x with rxq1 := x.rxq1 ++ [e] } [])) ∧
    (¬ (a.toNat ≤ id.toNat ∧ id.toNat ≤ b.toNat) → (id.setWidth 11 : CanId) &&& m ≠ xi &&& m →
      exec (.busRx inst id dlc data 0) s = .next s)

/-- ADD_FILTER (42_filter.md R101). -/
def Obligations.AddFilterTakesNextSlot : Prop :=
  MalformedAnswered 0x2 (fun w => w.extractLsb' 0 72 ≠ 0) ∧
  (∀ k a i1 i2, UnknownAnswered 0x2 fun inst => .addFilter inst k a i1 i2) ∧
  ∀ (s : State) (inst : InstId) (x : Controller) (k a : BitVec 8) (i1 i2 : BitVec 16), s.ctrl? inst = some x →
    (x.cstate = .uninitialized →
      exec (.addFilter inst k a i1 i2) s = .next (s.emit inst [.resp 0x2 .notInitialized])) ∧
    (x.cstate = .running → exec (.addFilter inst k a i1 i2) s = .next (s.emit inst [.resp 0x2 .error])) ∧
    (x.cstate = .configured → (2 < k.toNat ∨ 4 < a.toNat ∨ 0x7FF < i1.toNat ∨ 0x7FF < i2.toNat) →
      exec (.addFilter inst k a i1 i2) s = .next (s.emit inst [.resp 0x2 .invalidArgument])) ∧
    (∀ (kind : FilterKind) (action : FilterAction), x.cstate = .configured → k.toNat = kind.code →
      a.toNat = action.code → i1.toNat ≤ 0x7FF → i2.toNat ≤ 0x7FF →
      (x.nextSlot = s.params.filterCapacity →
        exec (.addFilter inst k a i1 i2) s = .next (s.emit inst [.resp 0x2 .error])) ∧
      (x.nextSlot ≠ s.params.filterCapacity →
        exec (.addFilter inst k a i1 i2) s = .next (s.commit inst { x with
            filters := x.filters.set x.nextSlot (some ⟨kind, action, i1.setWidth 11, i2.setWidth 11⟩),
            nextSlot := x.nextSlot + 1 } [.resp 0x2 .ok])))

/-- Slot exhaustion (42_filter.md R102): FILTER_CAPACITY + k valid ADD_FILTER commands from an empty table. -/
def Obligations.SlotExhaustion : Prop :=
  ∀ (s : State) (inst : InstId) (x : Controller) (rules : List FilterRule) (k : Nat),
    s.ctrl? inst = some x → x.cstate = .configured → x.nextSlot = 0 → x.filters.length = s.params.filterCapacity →
    rules.length = s.params.filterCapacity + k →
    ∃ t, execAll (rules.map fun r => Instr.addFilter inst (BitVec.ofNat 8 r.kind.code) (BitVec.ofNat 8 r.action.code)
        (r.id1.setWidth 16) (r.id2.setWidth 16)) s = .next t ∧
      t.ctrl? inst = some { x with
        filters := (rules.take s.params.filterCapacity).map some, nextSlot := s.params.filterCapacity } ∧
      t.trace = s.trace ++
        (List.replicate s.params.filterCapacity (⟨inst, .resp 0x2 .ok⟩ : TraceEntry) ++
          List.replicate k (⟨inst, .resp 0x2 .error⟩ : TraceEntry))

/-! ### Transmit and receive -/

/-- SEND (44_datapath.md R113). -/
def Obligations.SendQueuesFrame : Prop :=
  MalformedAnswered 0x4 (fun w => w.extractLsb' 0 32 ≠ 0) ∧
  (∀ id len d, UnknownAnswered 0x4 fun inst => .send inst id len d) ∧
  ∀ (s : State) (inst : InstId) (x : Controller) (id : BitVec 16) (len : BitVec 8) (data : BitVec 64),
    s.ctrl? inst = some x →
    (x.cstate = .uninitialized → exec (.send inst id len data) s = .next (s.emit inst [.resp 0x4 .notInitialized])) ∧
    (x.cstate = .configured → exec (.send inst id len data) s = .next (s.emit inst [.resp 0x4 .notStarted])) ∧
    (x.cstate = .running → 8 < len.toNat ∨ 0x7FF < id.toNat →
      exec (.send inst id len data) s = .next (s.emit inst [.resp 0x4 .invalidArgument])) ∧
    (x.cstate = .running → len.toNat ≤ 8 → id.toNat ≤ 0x7FF → x.txq.length = s.params.txqDepth →
      exec (.send inst id len data) s = .next (s.emit inst [.resp 0x4 .busy])) ∧
    (x.cstate = .running → len.toNat ≤ 8 → id.toNat ≤ 0x7FF → x.txq.length ≠ s.params.txqDepth →
      exec (.send inst id len data) s = .next (s.commit inst { x with
        txq := x.txq ++ [encodeElem (id.setWidth 11) (lenToDlc len.toNat)
          ((List.range len.toNat).map fun k => data.extractLsb' (8 * k) 8)] } [.resp 0x4 .ok]))

/-- TX_XMIT (44_datapath.md R114): with `fifo` the oldest element leaves, with `any` the one at the position of this draw of the
free value (log 4); on a loopback instance it goes through the instance's own filter (`AcceptFrame`), else to the bus. That one
offered where it is not enabled leaves the state unchanged is the model's choice (log 5). -/
def Obligations.TransmitSendsOneElement : Prop :=
  ∀ (s : State) (inst : InstId) (x : Controller), s.ctrl? inst = some x →
    (x.cstate ≠ .running ∨ x.txq = [] → exec (.txXmit inst) s = .next s) ∧
    (∀ e rest, x.cstate = .running → x.txq = e :: rest → s.params.txOrder = .fifo →
      (isLoopback s.params inst = false → exec (.txXmit inst) s =
        .next (s.commit inst { x with txq := rest }
          [.busTx (decodeElem e).1 (decodeElem e).2.1 (decodeElem e).2.2])) ∧
      (∀ y, isLoopback s.params inst = true →
        { x with txq := rest }.acceptFrame s.params (decodeElem e).1 (decodeElem e).2.1 (decodeElem e).2.2 = .done y [] →
        exec (.txXmit inst) s = .next (s.commit inst y []))) ∧
    (x.cstate = .running → x.txq ≠ [] → s.params.txOrder = .any → ∀ k, k = txPosition s.params inst x.draws x.txq.length →
      ∃ e, x.txq[k]? = some e ∧
      (isLoopback s.params inst = false → exec (.txXmit inst) s =
        .next (s.commit inst { x with txq := x.txq.eraseIdx k, draws := x.draws + 1 }
          [.busTx (decodeElem e).1 (decodeElem e).2.1 (decodeElem e).2.2])) ∧
      (∀ y, isLoopback s.params inst = true →
        { x with txq := x.txq.eraseIdx k, draws := x.draws + 1 }.acceptFrame s.params
          (decodeElem e).1 (decodeElem e).2.1 (decodeElem e).2.2 = .done y [] →
        exec (.txXmit inst) s = .next (s.commit inst y [])))

/-- BUS_RX (44_datapath.md R115). That one offered where it is not enabled, outside Running or on a loopback instance, leaves the
state unchanged is the model's choice (log 5). -/
def Obligations.BusReceive : Prop :=
  ∀ (s : State) (inst : InstId) (x : Controller) (id : BitVec 16) (dlc : BitVec 8) (data : BitVec 64) (rtr : BitVec 1),
    s.ctrl? inst = some x → id.toNat ≤ 0x7FF → dlc.toNat ≤ 15 →
    (x.cstate ≠ .running ∨ isLoopback s.params inst = true ∨ rtr = 1 → exec (.busRx inst id dlc data rtr) s = .next s) ∧
    (∀ y, x.cstate = .running → isLoopback s.params inst = false → rtr = 0 →
      x.acceptFrame s.params (id.setWidth 11) (dlc.setWidth 4)
        ((List.range (dlcToLen (dlc.setWidth 4))).map fun k => data.extractLsb' (8 * k) 8) = .done y [] →
      exec (.busRx inst id dlc data rtr) s = .next (s.commit inst y []))

/-- `AcceptFrame` (44_datapath.md R116), for every verdict of the filter. -/
def Obligations.AcceptFrameStores : Prop :=
  ∀ (p : Params) (x : Controller) (id : CanId) (dlc : Dlc) (data : List Byte) (slot : Option Nat),
    (x.classify id = .decided .discard slot → x.acceptFrame p id dlc data = .done x []) ∧
    (∀ q, x.classify id = .decided (.store q false) slot → (x.rxq q).length < p.rxqDepth →
      x.acceptFrame p id dlc data = .done (x.setRxq (x.rxq q ++ [encodeElem id dlc data]) q) []) ∧
    (∀ q, x.classify id = .decided (.store q false) slot → p.rxqDepth ≤ (x.rxq q).length →
      x.acceptFrame p id dlc data = .done (x.markLost q) []) ∧
    (∀ q k, x.classify id = .decided (.store q true) slot → slot = some k → (x.rxq q).length < p.rxqDepth →
      x.acceptFrame p id dlc data = .done { x.setRxq (x.rxq q ++ [encodeElem id dlc data]) q with
        hpStatus := ⟨true, k, q, true⟩, irqPending := x.irqPending ||| 0x04 } []) ∧
    (∀ q k, x.classify id = .decided (.store q true) slot → slot = some k → p.rxqDepth ≤ (x.rxq q).length →
      x.acceptFrame p id dlc data = .done { x.markLost q with
        hpStatus := ⟨true, k, q, false⟩, irqPending := x.irqPending ||| 0x04 } [])

/-- With the invariants every data frame that reaches the acceptance filter of a Running instance completes, and what it leaves is
what the verdict of `Classify`, the packed element and the room of the queue make of the instance. On a loopback instance the
frame is that of the element at the transmit engine's position, with `fifo` the oldest (44_datapath.md R114, R115, R116;
10_state.md R34; with `any` the position is the free value of log 4). -/
def Obligations.ReceivedFrameCompletes : Prop :=
  ∀ (s : State) (inst : InstId) (x : Controller), s.Ok → s.ctrl? inst = some x → x.cstate = .running →
    (∀ (id : BitVec 16) (dlc : BitVec 8) (data : BitVec 64), isLoopback s.params inst = false → id.toNat ≤ 0x7FF →
      dlc.toNat ≤ 15 → ∃ y, x.Receives s.params (id.setWidth 11) (dlc.setWidth 4)
          ((List.range (dlcToLen (dlc.setWidth 4))).map fun k => data.extractLsb' (8 * k) 8) y ∧
        exec (.busRx inst id dlc data 0) s = .next (s.commit inst y [])) ∧
    (isLoopback s.params inst = true → x.txq ≠ [] → ∀ k, k = txPosition s.params inst x.draws x.txq.length →
      (s.params.txOrder = .fifo → k = 0) ∧
      ∃ e y, x.txq[k]? = some e ∧
        { x with txq := x.txq.eraseIdx k, draws := nextDraw s.params x.draws }.Receives s.params
          (decodeElem e).1 (decodeElem e).2.1 (decodeElem e).2.2 y ∧
        exec (.txXmit inst) s = .next (s.commit inst y []))

/-- The fatal-assertion path (10_state.md R22, 60_exceptions.md R135): a frame on whose classification the filter finds an invariant
of R34 violated sets the sticky flag and changes nothing else, and from then on no agent has a step. That these two violations
are the ones the model detects is its choice (log 9). -/
def Obligations.ViolationHaltsTheBlock : Prop :=
  ∀ (s : State) (inst : InstId) (x : Controller), s.ctrl? inst = some x → x.cstate = .running →
    (∀ (id : BitVec 16) (dlc : BitVec 8) (data : BitVec 64), isLoopback s.params inst = false → id.toNat ≤ 0x7FF →
      dlc.toNat ≤ 15 → x.Violates (id.setWidth 11) →
        exec (.busRx inst id dlc data 0) s = .next { s with fault := true }) ∧
    (∀ e, isLoopback s.params inst = true → x.txq[txPosition s.params inst x.draws x.txq.length]? = some e →
      x.Violates (elemId e) → exec (.txXmit inst) s = .next { s with fault := true }) ∧
    (∀ rest, step { s with fault := true, schedule := rest } = .fault .halted)

/-- `ExtractOne` (44_datapath.md R117) and `H_CHAN` (45_channel.md R123). -/
def Obligations.ExtractOneFrame : Prop :=
  ∀ (p : Params) (x : Controller) (q : QueueId) (e : Elem) (rest : List Elem), x.rxq q = e :: rest →
    (x.cbRx q = none → x.extractOne p q = (x.setRxq rest q, [])) ∧
    (∀ h, x.cbRx q = some h → h ≠ 1 → x.extractOne p q = (x.setRxq rest q, [.rxCb q h (frameOfElem e)])) ∧
    (x.cbRx q = some 1 →
      x.extractOne p q = ((x.setRxq rest q).chanEnqueue p (frameOfElem e), [.rxCb q 1 (frameOfElem e)]))

/-- POLL_RX (44_datapath.md R118). -/
def Obligations.PollReceive : Prop :=
  MalformedAnswered 0x9 (fun w => w.extractLsb' 0 80 ≠ 0) ∧
  (∀ q n, UnknownAnswered 0x9 fun inst => .pollRx inst q n) ∧
  ∀ (s : State) (inst : InstId) (x : Controller) (qi : BitVec 8) (timeout : BitVec 32), s.ctrl? inst = some x →
    (x.cstate = .uninitialized → exec (.pollRx inst qi timeout) s = .next (s.emit inst [.resp 0x9 .notInitialized])) ∧
    (x.cstate = .configured → exec (.pollRx inst qi timeout) s = .next (s.emit inst [.resp 0x9 .notStarted])) ∧
    (x.cstate = .running → 1 < qi.toNat →
      exec (.pollRx inst qi timeout) s = .next (s.emit inst [.resp 0x9 .invalidArgument])) ∧
    ∀ q : QueueId, x.cstate = .running → qi.toNat = q.code →
      (x.poll ≠ none → exec (.pollRx inst qi timeout) s = .next (s.emit inst [.resp 0x9 .busy])) ∧
      (x.poll = none → x.irqEnable.getLsbD q.code = true →
        exec (.pollRx inst qi timeout) s = .refused .pollOnInterruptQueue) ∧
      (x.poll = none → x.irqEnable.getLsbD q.code = false → x.rxq q ≠ [] →
        exec (.pollRx inst qi timeout) s =
          .next (s.commit inst (x.extractOne s.params q).1 ((x.extractOne s.params q).2 ++ [.resp 0x9 .ok]))) ∧
      (x.poll = none → x.irqEnable.getLsbD q.code = false → x.rxq q = [] → timeout = 0 →
        exec (.pollRx inst qi timeout) s = .next (s.emit inst [.resp 0x9 .timeout])) ∧
      (x.poll = none → x.irqEnable.getLsbD q.code = false → x.rxq q = [] → timeout ≠ 0 →
        exec (.pollRx inst qi timeout) s = .next (s.commit inst { x with poll := some ⟨q, timeout.toNat⟩ } []))

/-- Completion of a held poll by arrival (44_datapath.md R119). That it is offered as an entry of the schedule is the model's choice
(log 1), and so is that one not enabled only leaves the schedule (log 5). -/
def Obligations.PollCompletion : Prop :=
  ∀ (s : State) (inst : InstId) (x : Controller) (rest : List Slot),
    s.fault = false → s.schedule = .pollDone inst :: rest → s.ctrl? inst = some x →
    (∀ h, x.poll = some h → x.rxq h.queue ≠ [] →
      step s = .next ({ s with schedule := rest }.commit inst
        { (x.extractOne s.params h.queue).1 with poll := none }
        ((x.extractOne s.params h.queue).2 ++ [Event.pollDone .ok]))) ∧
    ((∀ h, x.poll = some h → x.rxq h.queue = []) → step s = .next { s with schedule := rest })

/-- TICK (44_datapath.md R120), on every instance that a 4-bit identity can name. -/
def Obligations.TickAdvancesPolls : Prop :=
  ∀ s : State, s.ctrls.length ≤ 16 → ∃ t, exec .tick s = .next t ∧
    t.params = s.params ∧ t.fault = s.fault ∧ t.schedule = s.schedule ∧
    t.ctrls.length = s.ctrls.length ∧
    ∀ (inst : InstId) (x : Controller), s.ctrl? inst = some x →
      (x.poll = none → t.ctrl? inst = some x ∧ t.traceOf inst = s.traceOf inst) ∧
      (∀ h, x.poll = some h → 1 < h.remaining →
        t.ctrl? inst = some { x with poll := some ⟨h.queue, h.remaining - 1⟩ } ∧ t.traceOf inst = s.traceOf inst) ∧
      (∀ h, x.poll = some h → h.remaining ≤ 1 → x.rxq h.queue ≠ [] →
        t.ctrl? inst = some { (x.extractOne s.params h.queue).1 with poll := none } ∧
        t.traceOf inst = s.traceOf inst ++ ((x.extractOne s.params h.queue).2 ++ [Event.pollDone .ok])) ∧
      (∀ h, x.poll = some h → h.remaining ≤ 1 → x.rxq h.queue = [] →
        t.ctrl? inst = some { x with poll := none } ∧ t.traceOf inst = s.traceOf inst ++ [Event.pollDone .timeout])

/-- A poll with `n ≥ 1` ticks left and an empty queue ends with Timeout at exactly the n-th TICK
(44_datapath.md R120, corner cases). -/
def Obligations.PollExpiresAtNthTick : Prop :=
  ∀ (s : State) (inst : InstId) (x : Controller) (q : QueueId) (n : Nat), s.ctrls.length ≤ 16 →
    s.ctrl? inst = some x → x.poll = some ⟨q, n + 1⟩ → x.rxq q = [] →
    (∀ m, m ≤ n → ∃ t, execAll (List.replicate m Instr.tick) s = .next t ∧
      t.ctrl? inst = some { x with poll := some ⟨q, n + 1 - m⟩ } ∧ t.traceOf inst = s.traceOf inst) ∧
    ∃ t, execAll (List.replicate (n + 1) Instr.tick) s = .next t ∧
      t.ctrl? inst = some { x with poll := none } ∧ t.traceOf inst = s.traceOf inst ++ [Event.pollDone .timeout]

/-- Loopback round trip (44_datapath.md R121): an accepted SEND queues an element; the TX_XMIT that takes it stores it in
queue q; the extraction that pops it puts the submitted identifier, length and payload on the trace. -/
def Obligations.LoopbackRoundTrip : Prop :=
  ∀ (inst : InstId) (q : QueueId) (h : Handler) (id : BitVec 16) (len : BitVec 8) (data : BitVec 64),
    len.toNat ≤ 8 → id.toNat ≤ 0x7FF → ∃ e : Elem,
    (∀ (s : State) (x : Controller), s.ctrl? inst = some x → x.cstate = .running → x.txq.length ≠ s.params.txqDepth →
      exec (.send inst id len data) s = .next (s.commit inst { x with txq := x.txq ++ [e] } [.resp 0x4 .ok])) ∧
    (∀ (s : State) (x : Controller) (hp : Bool) (slot : Option Nat), s.ctrl? inst = some x → x.cstate = .running →
      isLoopback s.params inst = true → x.txq[txPosition s.params inst x.draws x.txq.length]? = some e →
      x.classify (id.setWidth 11) = .decided (.store q hp) slot → (x.rxq q).length < s.params.rxqDepth →
      ∃ y t, exec (.txXmit inst) s = .next t ∧ t.ctrl? inst = some y ∧ t.trace = s.trace ∧
        y.rxq q = x.rxq q ++ [e] ∧ y.txq = x.txq.eraseIdx (txPosition s.params inst x.draws x.txq.length) ∧
        y.cbRx q = x.cbRx q) ∧
    (∀ (s : State) (x : Controller) (rest : List Elem), s.ctrl? inst = some x → x.rxq q = e :: rest →
      x.cbRx q = some h →
      (⟨inst, .rxCb q h ⟨id.setWidth 11, len.toNat, payload data len.toNat⟩⟩ : TraceEntry) ∈
        (s.commit inst (x.extractOne s.params q).1 (x.extractOne s.params q).2).trace)

/-- The polled path and the interrupt path make the same callback and the same channel change for the same queue contents,
callback and channel (44_datapath.md R122). -/
def Obligations.PollMatchesDispatch : Prop :=
  ∀ (s : State) (i j : InstId) (x y : Controller) (q : QueueId) (qi : BitVec 8) (timeout : BitVec 32),
    s.ctrl? i = some x → s.ctrl? j = some y → s.params.dispatchOrder.Perm [.rxq0, .rxq1, .err, .hp] →
    x.cstate = .running → y.cstate = .running → qi.toNat = q.code → x.poll = none →
    x.irqEnable.getLsbD q.code = false → y.irqLines = q.reason → x.rxq q ≠ [] →
    x.rxq q = y.rxq q → x.cbRx q = y.cbRx q → x.chan = y.chan → x.chanDrops = y.chanDrops →
    ∃ x' y' evs, exec (.pollRx i qi timeout) s = .next (s.commit i x' (evs ++ [.resp 0x9 .ok])) ∧
      exec (.irqDispatch j q.reason) s = .next (s.commit j y' evs) ∧
      x'.chan = y'.chan ∧ x'.chanDrops = y'.chanDrops ∧ x'.rxq q = y'.rxq q

/-! ### The channel -/

/-- `ChanEnqueue` (45_channel.md R124), for both policies, with and without the counter. -/
def Obligations.ChanEnqueuePolicy : Prop :=
  ∀ (p : Params) (x : Controller) (f : Frame),
    (x.chan.length < p.chanCapacity → x.chanEnqueue p f = { x with chan := x.chan ++ [encodeChan f] }) ∧
    (p.chanCapacity ≤ x.chan.length → ∃ n : BitVec 32,
      (p.countDrops = true → n.toNat = min (x.chanDrops.toNat + 1) 0xFFFFFFFF) ∧
      (p.countDrops = false → n = x.chanDrops) ∧
      (p.chanPolicy = .dropNewest → x.chanEnqueue p f = { x with chanDrops := n }) ∧
      (∀ c rest, p.chanPolicy = .dropOldest → x.chan = c :: rest →
        x.chanEnqueue p f = { x with chan := rest ++ [encodeChan f], chanDrops := n }))

/-- The channel bound (45_channel.md R126): N + k enqueues into an empty channel with no dequeue. -/
def Obligations.ChannelBound : Prop :=
  ∀ (p : Params) (x : Controller) (fs : List Frame) (k : Nat), x.chan = [] → 0 < p.chanCapacity →
    fs.length = p.chanCapacity + k →
    (∀ m, ((fs.take m).foldl (fun y f => y.chanEnqueue p f) x).chan.length ≤ p.chanCapacity) ∧
    (p.chanPolicy = .dropNewest →
      (fs.foldl (fun y f => y.chanEnqueue p f) x).chan = (fs.take p.chanCapacity).map encodeChan) ∧
    (p.chanPolicy = .dropOldest →
      (fs.foldl (fun y f => y.chanEnqueue p f) x).chan = (fs.drop k).map encodeChan) ∧
    (p.countDrops = true → x.chanDrops.toNat + k ≤ 0xFFFFFFFF →
      (fs.foldl (fun y f => y.chanEnqueue p f) x).chanDrops.toNat = x.chanDrops.toNat + k)

/-- Under any interleaving in which no enqueue finds the channel full, the frames dequeued and then those still in the
channel are exactly the frames enqueued, in order and whole (45_channel.md R127). -/
def Obligations.ChannelDeliversOnceInOrder : Prop :=
  ∀ (p : Params) (ops : List ChanOp) (x y : Controller) (out : List Frame), x.chan = [] →
    (∀ f ∈ ChanOp.enqueued ops, f.Valid) → chanRun p ops x = some (y, out) →
    out ++ y.chan.map decodeChan = ChanOp.enqueued ops

/-- CHAN_DEQ (45_channel.md R125): the oldest entry is delivered; on an empty channel the RxTask is held, with no response,
until the next enqueue (how the hold is recorded and resumed is the model's choice, log 8); one issued while another is held is
refused (70_reset_and_hazards.md R156, 93 U8). -/
def Obligations.ChanDeqDelivers : Prop :=
  MalformedAnswered 0xF (fun w => w.extractLsb' 0 120 ≠ 0) ∧ UnknownAnswered 0xF .chanDeq ∧
  ∀ (s : State) (inst : InstId) (x : Controller), s.ctrl? inst = some x →
    (∀ c rest, x.rxWait = false → x.chan = c :: rest →
      exec (.chanDeq inst) s = .next (s.commit inst { x with chan := rest } [.deq (decodeChan c), .resp 0xF .ok])) ∧
    (x.rxWait = false → x.chan = [] → exec (.chanDeq inst) s = .next (s.commit inst { x with rxWait := true } [])) ∧
    (x.rxWait = true → exec (.chanDeq inst) s = .refused .secondConsumer) ∧
    (∀ c rest, x.rxWait = true → x.chan = c :: rest →
      execDeqResume inst s = .next (s.commit inst { x with chan := rest, rxWait := false }
        [.deq (decodeChan c), .resp 0xF .ok])) ∧
    (x.rxWait = false ∨ x.chan = [] → execDeqResume inst s = .next s)

/-! ### Interrupts -/

/-- `PendingView` and `IrqLines` (10_state.md R18, R19; 60_exceptions.md R137): a receive reason is pending exactly while its
queue is not empty, the other reasons while latched, and only enabled reasons reach the dispatcher. -/
def Obligations.PendingAndIrqLines : Prop :=
  ∀ x : Controller,
    (x.pendingView.getLsbD 0 = true ↔ x.rxq0 ≠ []) ∧ (x.pendingView.getLsbD 1 = true ↔ x.rxq1 ≠ []) ∧
    (∀ b, 2 ≤ b → b < 6 → x.pendingView.getLsbD b = x.irqPending.getLsbD b) ∧
    (∀ b, b < 6 → x.irqLines.getLsbD b = (x.pendingView.getLsbD b && x.irqEnable.getLsbD b)) ∧
    (∀ m, x.irqEnabled m = true ↔ x.cstate = .running ∧ x.irqLines ≠ 0 ∧ m = x.irqLines) ∧
    (∀ p, x.Ok p → x.cstate ≠ .running → x.irqLines = 0)

/-- BUS_STATUS (60_exceptions.md R138). That one offered outside Running leaves the state unchanged is the model's choice (log 5). -/
def Obligations.BusStatusLatches : Prop :=
  ∀ (s : State) (inst : InstId) (x : Controller) (m : Reasons), s.ctrl? inst = some x → m &&& 0x07 = 0 → m ≠ 0 →
    (x.cstate = .running →
      exec (.busStatus inst m) s = .next (s.commit inst { x with irqPending := x.irqPending ||| (m &&& 0x38) } [])) ∧
    (x.cstate ≠ .running → exec (.busStatus inst m) s = .next s)

/-- IRQ_DISPATCH with `DISPATCH_ORDER` at its default (60_exceptions.md R139). That one offered where it is not enabled leaves the
state unchanged is the model's choice (log 5). -/
def Obligations.DispatchServesReasons : Prop :=
  ∀ (s : State) (inst : InstId) (x : Controller) (m : Reasons), s.ctrl? inst = some x →
    s.params.dispatchOrder = [.rxq0, .rxq1, .err, .hp] →
    (x.cstate ≠ .running ∨ x.irqLines = 0 ∨ m ≠ x.irqLines → exec (.irqDispatch inst m) s = .next s) ∧
    (x.cstate = .running → x.irqLines ≠ 0 → m = x.irqLines →
      ∃ a b : Controller × List Event, ∃ ev hv : List Event,
        (m.getLsbD 0 = true → a = x.extractOne s.params .q0) ∧ (m.getLsbD 0 = false → a = (x, [])) ∧
        (m.getLsbD 1 = true → b = a.1.extractOne s.params .q1) ∧ (m.getLsbD 1 = false → b = (a.1, [])) ∧
        (∀ h, m &&& 0x38 ≠ 0 → x.cbErr = some h → ev = [.errCb h m]) ∧
        (m &&& 0x38 = 0 ∨ x.cbErr = none → ev = []) ∧
        (∀ h, m &&& 0x04 ≠ 0 → x.cbHp = some h → hv = [.hpCb h x.hpStatus]) ∧
        (m &&& 0x04 = 0 ∨ x.cbHp = none → hv = []) ∧
        exec (.irqDispatch inst m) s = .next (s.commit inst
          { b.1 with irqPending := x.irqPending &&& ~~~(m &&& 0x3C) } (a.2 ++ b.2 ++ ev ++ hv)))

/-- In every DISPATCH_ORDER one dispatcher call takes exactly one frame from each queue whose reason is given, in the order of the
two blocks, so that the channel is what `ExtractOne` of one queue and then of the other makes of it; it clears exactly the latched
reasons given, emits the events of the blocks in the given order, and writes nothing else (60_exceptions.md R139, 93 U13). -/
def Obligations.DispatchInEveryOrder : Prop :=
  ∀ (s : State) (inst : InstId) (x y : Controller), s.ctrl? inst = some x →
    s.params.dispatchOrder.Perm [.rxq0, .rxq1, .err, .hp] → x.cstate = .running → x.irqLines ≠ 0 →
    y = (if s.params.dispatchOrder.idxOf .rxq0 < s.params.dispatchOrder.idxOf .rxq1
      then x.extractBoth s.params x.irqLines .q0 .q1 else x.extractBoth s.params x.irqLines .q1 .q0) →
      exec (.irqDispatch inst x.irqLines) s = .next (s.commit inst
        { y with irqPending := x.irqPending &&& ~~~(x.irqLines &&& 0x3C) }
        (s.params.dispatchOrder.flatMap (x.blockEvents s.params x.irqLines))) ∧
      y = { x with
        rxq0 := if x.irqLines.getLsbD 0 then x.rxq0.tail else x.rxq0,
        rxq1 := if x.irqLines.getLsbD 1 then x.rxq1.tail else x.rxq1, chan := y.chan, chanDrops := y.chanDrops } ∧
      (s.params.dispatchOrder.flatMap (x.blockEvents s.params x.irqLines)).Perm
        ([ReasonClass.rxq0, .rxq1, .err, .hp].flatMap (x.blockEvents s.params x.irqLines)) ∧
      (x.cbRx0 ≠ some 1 → x.cbRx1 ≠ some 1 → y.chan = x.chan ∧ y.chanDrops = x.chanDrops)
end

