-- ==== Sys2Proof/Laws/Codec.lean ====
section
/-! SUPPORT. The fields of a packed element, each read back once. -/

namespace Sys2Proof.Machine

@[simp] theorem elemId_encodeElem (id : CanId) (dlc : Dlc) (data : List Byte) : elemId (encodeElem id dlc data) = id := by
  unfold elemId encodeElem
  rw [BitVec.extractLsb'_append_eq_of_add_le]
  all_goals simp

@[simp] theorem elemDlc_encodeElem (id : CanId) (dlc : Dlc) (data : List Byte) : elemDlc (encodeElem id dlc data) = dlc := by
  unfold elemDlc encodeElem
  rw [BitVec.extractLsb'_append_eq_of_le, BitVec.extractLsb'_append_eq_of_le, BitVec.extractLsb'_append_eq_of_add_le]
  all_goals simp

@[simp] theorem elemData_encodeElem (id : CanId) (dlc : Dlc) (data : List Byte) :
    elemData (encodeElem id dlc data) = packBytes (data.take (dlcToLen dlc)) := by
  unfold elemData encodeElem
  rw [BitVec.extractLsb'_append_eq_of_le, BitVec.extractLsb'_append_eq_of_le, BitVec.extractLsb'_append_eq_of_le,
    BitVec.extractLsb'_append_eq_of_le]
  all_goals simp

theorem dlcToLen_le (dlc : Dlc) : dlcToLen dlc ≤ 8 := by
  unfold dlcToLen
  split <;> omega

@[simp] theorem payload_length (data : BitVec 64) (n : Nat) : (payload data n).length = n := by
  simp [payload]

/-- A packed payload byte, read back (20_memory.md R37). -/
theorem packBytes_byte (l : List Byte) : ∀ k, k < 8 → (packBytes l).extractLsb' (8 * k) 8 = l.getD k 0 := by
  induction l with
  | nil => intro k _; simp [packBytes]
  | cons b bs ih =>
    intro k hk
    cases k with
    | zero =>
      ext i hi
      have h1 : i < 64 := by omega
      simp [packBytes, hi, h1]
    | succ k =>
      have := ih k (by omega)
      simp only [List.getD_cons_succ, ← this]
      ext i hi
      have e1 : 8 * (k + 1) + i - 8 = 8 * k + i := by omega
      have e2 : 8 * (k + 1) + i < 64 := by omega
      have e3 : ¬ 8 * (k + 1) + i < 8 := by omega
      have e4 : 8 * k + i < 64 := by omega
      simp [packBytes, e1, e2, e3, BitVec.getLsbD_of_ge b (8 * (k + 1) + i) (by omega), BitVec.getLsbD_eq_getElem e4]

/-- Unpacking a packed payload gives it back. -/
theorem payload_packBytes {l : List Byte} (h : l.length ≤ 8) : payload (packBytes l) l.length = l := by
  apply List.ext_getElem
  · simp
  · intro k h1 h2
    simp only [payload, List.getElem_map, List.getElem_range]
    rw [packBytes_byte l k (by omega)]
    simp [List.getD, h2]

/-- The element a receive or transmit queue holds decodes to what was packed (40_frame_codec.md R79). -/
theorem decodeElem_fields (e : Elem) :
    decodeElem e = ((frameOfElem e).id, elemDlc e, (frameOfElem e).data) := rfl

end Sys2Proof.Machine
end

