-- ==== Sys2Proof/Laws/State.lean ====
section
/-! SUPPORT. One lemma per field per named update of a state record, true by computation: proofs read a field through an
update with `simp` and never unfold the update. -/

namespace Sys2Proof.Machine

/-! ### `setRxq` -/

@[simp] theorem Controller.setRxq_cstate (x : Controller) (l : List Elem) (q : QueueId) : (x.setRxq l q).cstate = x.cstate := by cases q <;> rfl
@[simp] theorem Controller.setRxq_bt (x : Controller) (l : List Elem) (q : QueueId) : (x.setRxq l q).bt = x.bt := by cases q <;> rfl
@[simp] theorem Controller.setRxq_defaultAction (x : Controller) (l : List Elem) (q : QueueId) : (x.setRxq l q).defaultAction = x.defaultAction := by cases q <;> rfl
@[simp] theorem Controller.setRxq_irqEnable (x : Controller) (l : List Elem) (q : QueueId) : (x.setRxq l q).irqEnable = x.irqEnable := by cases q <;> rfl
@[simp] theorem Controller.setRxq_irqPending (x : Controller) (l : List Elem) (q : QueueId) : (x.setRxq l q).irqPending = x.irqPending := by cases q <;> rfl
@[simp] theorem Controller.setRxq_hpStatus (x : Controller) (l : List Elem) (q : QueueId) : (x.setRxq l q).hpStatus = x.hpStatus := by cases q <;> rfl
@[simp] theorem Controller.setRxq_rxLost0 (x : Controller) (l : List Elem) (q : QueueId) : (x.setRxq l q).rxLost0 = x.rxLost0 := by cases q <;> rfl
@[simp] theorem Controller.setRxq_rxLost1 (x : Controller) (l : List Elem) (q : QueueId) : (x.setRxq l q).rxLost1 = x.rxLost1 := by cases q <;> rfl
@[simp] theorem Controller.setRxq_filters (x : Controller) (l : List Elem) (q : QueueId) : (x.setRxq l q).filters = x.filters := by cases q <;> rfl
@[simp] theorem Controller.setRxq_nextSlot (x : Controller) (l : List Elem) (q : QueueId) : (x.setRxq l q).nextSlot = x.nextSlot := by cases q <;> rfl
@[simp] theorem Controller.setRxq_cbRx0 (x : Controller) (l : List Elem) (q : QueueId) : (x.setRxq l q).cbRx0 = x.cbRx0 := by cases q <;> rfl
@[simp] theorem Controller.setRxq_cbRx1 (x : Controller) (l : List Elem) (q : QueueId) : (x.setRxq l q).cbRx1 = x.cbRx1 := by cases q <;> rfl
@[simp] theorem Controller.setRxq_cbErr (x : Controller) (l : List Elem) (q : QueueId) : (x.setRxq l q).cbErr = x.cbErr := by cases q <;> rfl
@[simp] theorem Controller.setRxq_cbHp (x : Controller) (l : List Elem) (q : QueueId) : (x.setRxq l q).cbHp = x.cbHp := by cases q <;> rfl
@[simp] theorem Controller.setRxq_txq (x : Controller) (l : List Elem) (q : QueueId) : (x.setRxq l q).txq = x.txq := by cases q <;> rfl
@[simp] theorem Controller.setRxq_chan (x : Controller) (l : List Elem) (q : QueueId) : (x.setRxq l q).chan = x.chan := by cases q <;> rfl
@[simp] theorem Controller.setRxq_chanDrops (x : Controller) (l : List Elem) (q : QueueId) : (x.setRxq l q).chanDrops = x.chanDrops := by cases q <;> rfl
@[simp] theorem Controller.setRxq_poll (x : Controller) (l : List Elem) (q : QueueId) : (x.setRxq l q).poll = x.poll := by cases q <;> rfl
@[simp] theorem Controller.setRxq_rxWait (x : Controller) (l : List Elem) (q : QueueId) : (x.setRxq l q).rxWait = x.rxWait := by cases q <;> rfl
@[simp] theorem Controller.setRxq_draws (x : Controller) (l : List Elem) (q : QueueId) : (x.setRxq l q).draws = x.draws := by cases q <;> rfl

/-! ### `setCbRx` -/

@[simp] theorem Controller.setCbRx_cstate (x : Controller) (h : Option Handler) (q : QueueId) : (x.setCbRx h q).cstate = x.cstate := by cases q <;> rfl
@[simp] theorem Controller.setCbRx_bt (x : Controller) (h : Option Handler) (q : QueueId) : (x.setCbRx h q).bt = x.bt := by cases q <;> rfl
@[simp] theorem Controller.setCbRx_defaultAction (x : Controller) (h : Option Handler) (q : QueueId) : (x.setCbRx h q).defaultAction = x.defaultAction := by cases q <;> rfl
@[simp] theorem Controller.setCbRx_irqEnable (x : Controller) (h : Option Handler) (q : QueueId) : (x.setCbRx h q).irqEnable = x.irqEnable := by cases q <;> rfl
@[simp] theorem Controller.setCbRx_irqPending (x : Controller) (h : Option Handler) (q : QueueId) : (x.setCbRx h q).irqPending = x.irqPending := by cases q <;> rfl
@[simp] theorem Controller.setCbRx_hpStatus (x : Controller) (h : Option Handler) (q : QueueId) : (x.setCbRx h q).hpStatus = x.hpStatus := by cases q <;> rfl
@[simp] theorem Controller.setCbRx_rxLost0 (x : Controller) (h : Option Handler) (q : QueueId) : (x.setCbRx h q).rxLost0 = x.rxLost0 := by cases q <;> rfl
@[simp] theorem Controller.setCbRx_rxLost1 (x : Controller) (h : Option Handler) (q : QueueId) : (x.setCbRx h q).rxLost1 = x.rxLost1 := by cases q <;> rfl
@[simp] theorem Controller.setCbRx_filters (x : Controller) (h : Option Handler) (q : QueueId) : (x.setCbRx h q).filters = x.filters := by cases q <;> rfl
@[simp] theorem Controller.setCbRx_nextSlot (x : Controller) (h : Option Handler) (q : QueueId) : (x.setCbRx h q).nextSlot = x.nextSlot := by cases q <;> rfl
@[simp] theorem Controller.setCbRx_cbErr (x : Controller) (h : Option Handler) (q : QueueId) : (x.setCbRx h q).cbErr = x.cbErr := by cases q <;> rfl
@[simp] theorem Controller.setCbRx_cbHp (x : Controller) (h : Option Handler) (q : QueueId) : (x.setCbRx h q).cbHp = x.cbHp := by cases q <;> rfl
@[simp] theorem Controller.setCbRx_rxq0 (x : Controller) (h : Option Handler) (q : QueueId) : (x.setCbRx h q).rxq0 = x.rxq0 := by cases q <;> rfl
@[simp] theorem Controller.setCbRx_rxq1 (x : Controller) (h : Option Handler) (q : QueueId) : (x.setCbRx h q).rxq1 = x.rxq1 := by cases q <;> rfl
@[simp] theorem Controller.setCbRx_txq (x : Controller) (h : Option Handler) (q : QueueId) : (x.setCbRx h q).txq = x.txq := by cases q <;> rfl
@[simp] theorem Controller.setCbRx_chan (x : Controller) (h : Option Handler) (q : QueueId) : (x.setCbRx h q).chan = x.chan := by cases q <;> rfl
@[simp] theorem Controller.setCbRx_chanDrops (x : Controller) (h : Option Handler) (q : QueueId) : (x.setCbRx h q).chanDrops = x.chanDrops := by cases q <;> rfl
@[simp] theorem Controller.setCbRx_poll (x : Controller) (h : Option Handler) (q : QueueId) : (x.setCbRx h q).poll = x.poll := by cases q <;> rfl
@[simp] theorem Controller.setCbRx_rxWait (x : Controller) (h : Option Handler) (q : QueueId) : (x.setCbRx h q).rxWait = x.rxWait := by cases q <;> rfl
@[simp] theorem Controller.setCbRx_draws (x : Controller) (h : Option Handler) (q : QueueId) : (x.setCbRx h q).draws = x.draws := by cases q <;> rfl

/-! ### `markLost` -/

@[simp] theorem Controller.markLost_cstate (x : Controller) (q : QueueId) : (x.markLost q).cstate = x.cstate := by cases q <;> rfl
@[simp] theorem Controller.markLost_bt (x : Controller) (q : QueueId) : (x.markLost q).bt = x.bt := by cases q <;> rfl
@[simp] theorem Controller.markLost_defaultAction (x : Controller) (q : QueueId) : (x.markLost q).defaultAction = x.defaultAction := by cases q <;> rfl
@[simp] theorem Controller.markLost_irqEnable (x : Controller) (q : QueueId) : (x.markLost q).irqEnable = x.irqEnable := by cases q <;> rfl
@[simp] theorem Controller.markLost_irqPending (x : Controller) (q : QueueId) : (x.markLost q).irqPending = x.irqPending := by cases q <;> rfl
@[simp] theorem Controller.markLost_hpStatus (x : Controller) (q : QueueId) : (x.markLost q).hpStatus = x.hpStatus := by cases q <;> rfl
@[simp] theorem Controller.markLost_filters (x : Controller) (q : QueueId) : (x.markLost q).filters = x.filters := by cases q <;> rfl
@[simp] theorem Controller.markLost_nextSlot (x : Controller) (q : QueueId) : (x.markLost q).nextSlot = x.nextSlot := by cases q <;> rfl
@[simp] theorem Controller.markLost_cbRx0 (x : Controller) (q : QueueId) : (x.markLost q).cbRx0 = x.cbRx0 := by cases q <;> rfl
@[simp] theorem Controller.markLost_cbRx1 (x : Controller) (q : QueueId) : (x.markLost q).cbRx1 = x.cbRx1 := by cases q <;> rfl
@[simp] theorem Controller.markLost_cbErr (x : Controller) (q : QueueId) : (x.markLost q).cbErr = x.cbErr := by cases q <;> rfl
@[simp] theorem Controller.markLost_cbHp (x : Controller) (q : QueueId) : (x.markLost q).cbHp = x.cbHp := by cases q <;> rfl
@[simp] theorem Controller.markLost_rxq0 (x : Controller) (q : QueueId) : (x.markLost q).rxq0 = x.rxq0 := by cases q <;> rfl
@[simp] theorem Controller.markLost_rxq1 (x : Controller) (q : QueueId) : (x.markLost q).rxq1 = x.rxq1 := by cases q <;> rfl
@[simp] theorem Controller.markLost_txq (x : Controller) (q : QueueId) : (x.markLost q).txq = x.txq := by cases q <;> rfl
@[simp] theorem Controller.markLost_chan (x : Controller) (q : QueueId) : (x.markLost q).chan = x.chan := by cases q <;> rfl
@[simp] theorem Controller.markLost_chanDrops (x : Controller) (q : QueueId) : (x.markLost q).chanDrops = x.chanDrops := by cases q <;> rfl
@[simp] theorem Controller.markLost_poll (x : Controller) (q : QueueId) : (x.markLost q).poll = x.poll := by cases q <;> rfl
@[simp] theorem Controller.markLost_rxWait (x : Controller) (q : QueueId) : (x.markLost q).rxWait = x.rxWait := by cases q <;> rfl
@[simp] theorem Controller.markLost_draws (x : Controller) (q : QueueId) : (x.markLost q).draws = x.draws := by cases q <;> rfl

/-! ### `latch` -/

@[simp] theorem Controller.latch_cstate (x : Controller) (m : Reasons) : (x.latch m).cstate = x.cstate := rfl
@[simp] theorem Controller.latch_bt (x : Controller) (m : Reasons) : (x.latch m).bt = x.bt := rfl
@[simp] theorem Controller.latch_defaultAction (x : Controller) (m : Reasons) : (x.latch m).defaultAction = x.defaultAction := rfl
@[simp] theorem Controller.latch_irqEnable (x : Controller) (m : Reasons) : (x.latch m).irqEnable = x.irqEnable := rfl
@[simp] theorem Controller.latch_hpStatus (x : Controller) (m : Reasons) : (x.latch m).hpStatus = x.hpStatus := rfl
@[simp] theorem Controller.latch_rxLost0 (x : Controller) (m : Reasons) : (x.latch m).rxLost0 = x.rxLost0 := rfl
@[simp] theorem Controller.latch_rxLost1 (x : Controller) (m : Reasons) : (x.latch m).rxLost1 = x.rxLost1 := rfl
@[simp] theorem Controller.latch_filters (x : Controller) (m : Reasons) : (x.latch m).filters = x.filters := rfl
@[simp] theorem Controller.latch_nextSlot (x : Controller) (m : Reasons) : (x.latch m).nextSlot = x.nextSlot := rfl
@[simp] theorem Controller.latch_cbRx0 (x : Controller) (m : Reasons) : (x.latch m).cbRx0 = x.cbRx0 := rfl
@[simp] theorem Controller.latch_cbRx1 (x : Controller) (m : Reasons) : (x.latch m).cbRx1 = x.cbRx1 := rfl
@[simp] theorem Controller.latch_cbErr (x : Controller) (m : Reasons) : (x.latch m).cbErr = x.cbErr := rfl
@[simp] theorem Controller.latch_cbHp (x : Controller) (m : Reasons) : (x.latch m).cbHp = x.cbHp := rfl
@[simp] theorem Controller.latch_rxq0 (x : Controller) (m : Reasons) : (x.latch m).rxq0 = x.rxq0 := rfl
@[simp] theorem Controller.latch_rxq1 (x : Controller) (m : Reasons) : (x.latch m).rxq1 = x.rxq1 := rfl
@[simp] theorem Controller.latch_txq (x : Controller) (m : Reasons) : (x.latch m).txq = x.txq := rfl
@[simp] theorem Controller.latch_chan (x : Controller) (m : Reasons) : (x.latch m).chan = x.chan := rfl
@[simp] theorem Controller.latch_chanDrops (x : Controller) (m : Reasons) : (x.latch m).chanDrops = x.chanDrops := rfl
@[simp] theorem Controller.latch_poll (x : Controller) (m : Reasons) : (x.latch m).poll = x.poll := rfl
@[simp] theorem Controller.latch_rxWait (x : Controller) (m : Reasons) : (x.latch m).rxWait = x.rxWait := rfl
@[simp] theorem Controller.latch_draws (x : Controller) (m : Reasons) : (x.latch m).draws = x.draws := rfl

/-! ### `unlatch` -/

@[simp] theorem Controller.unlatch_cstate (x : Controller) (m : Reasons) : (x.unlatch m).cstate = x.cstate := rfl
@[simp] theorem Controller.unlatch_bt (x : Controller) (m : Reasons) : (x.unlatch m).bt = x.bt := rfl
@[simp] theorem Controller.unlatch_defaultAction (x : Controller) (m : Reasons) : (x.unlatch m).defaultAction = x.defaultAction := rfl
@[simp] theorem Controller.unlatch_irqEnable (x : Controller) (m : Reasons) : (x.unlatch m).irqEnable = x.irqEnable := rfl
@[simp] theorem Controller.unlatch_hpStatus (x : Controller) (m : Reasons) : (x.unlatch m).hpStatus = x.hpStatus := rfl
@[simp] theorem Controller.unlatch_rxLost0 (x : Controller) (m : Reasons) : (x.unlatch m).rxLost0 = x.rxLost0 := rfl
@[simp] theorem Controller.unlatch_rxLost1 (x : Controller) (m : Reasons) : (x.unlatch m).rxLost1 = x.rxLost1 := rfl
@[simp] theorem Controller.unlatch_filters (x : Controller) (m : Reasons) : (x.unlatch m).filters = x.filters := rfl
@[simp] theorem Controller.unlatch_nextSlot (x : Controller) (m : Reasons) : (x.unlatch m).nextSlot = x.nextSlot := rfl
@[simp] theorem Controller.unlatch_cbRx0 (x : Controller) (m : Reasons) : (x.unlatch m).cbRx0 = x.cbRx0 := rfl
@[simp] theorem Controller.unlatch_cbRx1 (x : Controller) (m : Reasons) : (x.unlatch m).cbRx1 = x.cbRx1 := rfl
@[simp] theorem Controller.unlatch_cbErr (x : Controller) (m : Reasons) : (x.unlatch m).cbErr = x.cbErr := rfl
@[simp] theorem Controller.unlatch_cbHp (x : Controller) (m : Reasons) : (x.unlatch m).cbHp = x.cbHp := rfl
@[simp] theorem Controller.unlatch_rxq0 (x : Controller) (m : Reasons) : (x.unlatch m).rxq0 = x.rxq0 := rfl
@[simp] theorem Controller.unlatch_rxq1 (x : Controller) (m : Reasons) : (x.unlatch m).rxq1 = x.rxq1 := rfl
@[simp] theorem Controller.unlatch_txq (x : Controller) (m : Reasons) : (x.unlatch m).txq = x.txq := rfl
@[simp] theorem Controller.unlatch_chan (x : Controller) (m : Reasons) : (x.unlatch m).chan = x.chan := rfl
@[simp] theorem Controller.unlatch_chanDrops (x : Controller) (m : Reasons) : (x.unlatch m).chanDrops = x.chanDrops := rfl
@[simp] theorem Controller.unlatch_poll (x : Controller) (m : Reasons) : (x.unlatch m).poll = x.poll := rfl
@[simp] theorem Controller.unlatch_rxWait (x : Controller) (m : Reasons) : (x.unlatch m).rxWait = x.rxWait := rfl
@[simp] theorem Controller.unlatch_draws (x : Controller) (m : Reasons) : (x.unlatch m).draws = x.draws := rfl

@[simp] theorem Controller.latch_irqPending (x : Controller) (m : Reasons) :
    (x.latch m).irqPending = x.irqPending ||| m := rfl
@[simp] theorem Controller.unlatch_irqPending (x : Controller) (m : Reasons) :
    (x.unlatch m).irqPending = x.irqPending &&& ~~~m := rfl

/-! ### `hwReset` (43_controller.md R105) -/

@[simp] theorem Controller.hwReset_cstate (p : Params) (x : Controller) : (x.hwReset p).cstate = x.cstate := rfl
@[simp] theorem Controller.hwReset_bt (p : Params) (x : Controller) : (x.hwReset p).bt = x.bt := rfl
@[simp] theorem Controller.hwReset_defaultAction (p : Params) (x : Controller) : (x.hwReset p).defaultAction = x.defaultAction := rfl
@[simp] theorem Controller.hwReset_irqEnable (p : Params) (x : Controller) : (x.hwReset p).irqEnable = 0 := rfl
@[simp] theorem Controller.hwReset_irqPending (p : Params) (x : Controller) : (x.hwReset p).irqPending = 0 := rfl
@[simp] theorem Controller.hwReset_hpStatus (p : Params) (x : Controller) : (x.hwReset p).hpStatus = { x.hpStatus with valid := false } := rfl
@[simp] theorem Controller.hwReset_rxLost0 (p : Params) (x : Controller) : (x.hwReset p).rxLost0 = false := rfl
@[simp] theorem Controller.hwReset_rxLost1 (p : Params) (x : Controller) : (x.hwReset p).rxLost1 = false := rfl
@[simp] theorem Controller.hwReset_filters (p : Params) (x : Controller) : (x.hwReset p).filters = List.replicate p.filterCapacity none := rfl
@[simp] theorem Controller.hwReset_nextSlot (p : Params) (x : Controller) : (x.hwReset p).nextSlot = 0 := rfl
@[simp] theorem Controller.hwReset_cbRx0 (p : Params) (x : Controller) : (x.hwReset p).cbRx0 = x.cbRx0 := rfl
@[simp] theorem Controller.hwReset_cbRx1 (p : Params) (x : Controller) : (x.hwReset p).cbRx1 = x.cbRx1 := rfl
@[simp] theorem Controller.hwReset_cbErr (p : Params) (x : Controller) : (x.hwReset p).cbErr = x.cbErr := rfl
@[simp] theorem Controller.hwReset_cbHp (p : Params) (x : Controller) : (x.hwReset p).cbHp = x.cbHp := rfl
@[simp] theorem Controller.hwReset_rxq0 (p : Params) (x : Controller) : (x.hwReset p).rxq0 = [] := rfl
@[simp] theorem Controller.hwReset_rxq1 (p : Params) (x : Controller) : (x.hwReset p).rxq1 = [] := rfl
@[simp] theorem Controller.hwReset_txq (p : Params) (x : Controller) : (x.hwReset p).txq = [] := rfl
@[simp] theorem Controller.hwReset_chan (p : Params) (x : Controller) : (x.hwReset p).chan = x.chan := rfl
@[simp] theorem Controller.hwReset_chanDrops (p : Params) (x : Controller) : (x.hwReset p).chanDrops = x.chanDrops := rfl
@[simp] theorem Controller.hwReset_poll (p : Params) (x : Controller) : (x.hwReset p).poll = none := rfl
@[simp] theorem Controller.hwReset_rxWait (p : Params) (x : Controller) : (x.hwReset p).rxWait = x.rxWait := rfl
@[simp] theorem Controller.hwReset_draws (p : Params) (x : Controller) : (x.hwReset p).draws = x.draws := rfl

/-! ### Queues and callback slots through their accessors -/

@[simp] theorem Controller.rxq_setRxq (x : Controller) (l : List Elem) (q : QueueId) : (x.setRxq l q).rxq q = l := by
  cases q <;> rfl

theorem Controller.rxq_setRxq_ne (x : Controller) (l : List Elem) {q r : QueueId} (h : r ≠ q) :
    (x.setRxq l q).rxq r = x.rxq r := by
  cases q <;> cases r <;> first | rfl | exact absurd rfl h

@[simp] theorem Controller.rxq_markLost (x : Controller) (q r : QueueId) : (x.markLost q).rxq r = x.rxq r := by
  cases q <;> cases r <;> rfl

@[simp] theorem Controller.rxq_setCbRx (x : Controller) (h : Option Handler) (q r : QueueId) :
    (x.setCbRx h q).rxq r = x.rxq r := by
  cases q <;> cases r <;> rfl

@[simp] theorem Controller.cbRx_setRxq (x : Controller) (l : List Elem) (q r : QueueId) :
    (x.setRxq l q).cbRx r = x.cbRx r := by
  cases q <;> cases r <;> rfl

@[simp] theorem Controller.cbRx_markLost (x : Controller) (q r : QueueId) : (x.markLost q).cbRx r = x.cbRx r := by
  cases q <;> cases r <;> rfl

@[simp] theorem Controller.cbRx_setCbRx (x : Controller) (h : Option Handler) (q : QueueId) :
    (x.setCbRx h q).cbRx q = h := by
  cases q <;> rfl

/-! ### `emit`, `commit` and the schedule -/

@[simp] theorem State.emit_params (s : State) (inst : InstId) (evs : List Event) : (s.emit inst evs).params = s.params := rfl
@[simp] theorem State.emit_ctrls (s : State) (inst : InstId) (evs : List Event) : (s.emit inst evs).ctrls = s.ctrls := rfl
@[simp] theorem State.emit_fault (s : State) (inst : InstId) (evs : List Event) : (s.emit inst evs).fault = s.fault := rfl
@[simp] theorem State.emit_schedule (s : State) (inst : InstId) (evs : List Event) : (s.emit inst evs).schedule = s.schedule := rfl
@[simp] theorem State.commit_params (s : State) (inst : InstId) (x : Controller) (evs : List Event) :
    (s.commit inst x evs).params = s.params := rfl
@[simp] theorem State.commit_fault (s : State) (inst : InstId) (x : Controller) (evs : List Event) :
    (s.commit inst x evs).fault = s.fault := rfl
@[simp] theorem State.commit_schedule (s : State) (inst : InstId) (x : Controller) (evs : List Event) :
    (s.commit inst x evs).schedule = s.schedule := rfl
@[simp] theorem State.emit_trace (s : State) (inst : InstId) (evs : List Event) :
    (s.emit inst evs).trace = s.trace ++ evs.map (fun e => { inst := inst, event := e }) := rfl
@[simp] theorem State.commit_trace (s : State) (inst : InstId) (x : Controller) (evs : List Event) :
    (s.commit inst x evs).trace = s.trace ++ evs.map (fun e => { inst := inst, event := e }) := rfl
@[simp] theorem State.commit_ctrls (s : State) (inst : InstId) (x : Controller) (evs : List Event) :
    (s.commit inst x evs).ctrls = s.ctrls.set inst.toNat x := rfl

/-- An unchanged instance is no change. -/
theorem State.commit_self {s : State} {inst : InstId} {x : Controller} (h : s.ctrl? inst = some x) (evs : List Event) :
    s.commit inst x evs = s.emit inst evs := by
  obtain ⟨hlt, hx⟩ := List.getElem?_eq_some_iff.mp h
  simp [State.commit, State.emit, ← hx, List.set_getElem_self]

@[simp] theorem State.emit_nil (s : State) (inst : InstId) : s.emit inst [] = s := by
  simp [State.emit]

/-- What an instance is after a commit to it. -/
theorem State.ctrl?_commit {s : State} {inst : InstId} {x : Controller} (h : s.ctrl? inst = some x) (y : Controller)
    (evs : List Event) : (s.commit inst y evs).ctrl? inst = some y := by
  obtain ⟨hlt, -⟩ := List.getElem?_eq_some_iff.mp h
  simp [State.ctrl?, State.commit, hlt]

/-- The other instances after a commit. -/
theorem State.ctrls_commit_ne (s : State) {inst : InstId} {k : Nat} (h : k ≠ inst.toNat) (y : Controller)
    (evs : List Event) : (s.commit inst y evs).ctrls[k]? = s.ctrls[k]? := by
  simp [State.commit, List.getElem?_set_ne (Ne.symm h)]

/-- The trace of an instance after a commit to it. -/
theorem State.traceOf_commit (s : State) (inst : InstId) (y : Controller) (evs : List Event) :
    (s.commit inst y evs).traceOf inst = s.traceOf inst ++ evs := by
  simp [State.traceOf, List.filter_append, List.filter_map, Function.comp_def]

/-- The traces of the others after a commit. -/
theorem State.traceOf_commit_ne (s : State) {inst j : InstId} (h : j ≠ inst) (y : Controller) (evs : List Event) :
    (s.commit inst y evs).traceOf j = s.traceOf j := by
  simp [State.traceOf, List.filter_append, List.filter_map, Function.comp_def, Ne.symm h]

end Sys2Proof.Machine
end

