-- ==== Sys2Proof/Laws/Ops.lean ====
section
/-! SUPPORT. One lemma per shared operation that says everything it can do. -/

namespace Sys2Proof.Machine

/-! ### Reaching an instance -/

@[simp] theorem State.settle_done (s : State) (inst : InstId) (x : Controller) (evs : List Event) :
    s.settle inst (.done x evs) = .next (s.commit inst x evs) := rfl
@[simp] theorem State.settle_fatal (s : State) (inst : InstId) :
    s.settle inst .fatal = .next { s with fault := true } := rfl
@[simp] theorem State.settle_refused (s : State) (inst : InstId) (r : Refusal) :
    s.settle inst (.refused r) = .refused r := rfl

/-- `settle` answers a next state only for a done or a fatal local result. -/
theorem State.settle_next {s t : State} {inst : InstId} {r : LocalResult} (h : s.settle inst r = .next t) :
    (∃ x evs, r = .done x evs ∧ t = s.commit inst x evs) ∨ (r = .fatal ∧ t = { s with fault := true }) := by
  cases r with
  | done x evs => exact .inl ⟨x, evs, rfl, by simpa using h.symm⟩
  | fatal => exact .inr ⟨rfl, by simpa using h.symm⟩
  | refused r => simp at h

theorem hostCommand_known {s : State} {inst : InstId} {x : Controller} (h : s.ctrl? inst = some x) (op : OpCode)
    (body : Controller → LocalResult) : hostCommand op inst s body = s.settle inst (body x) := by
  simp [hostCommand, h]

theorem hostCommand_unknown {s : State} {inst : InstId} (h : s.ctrl? inst = none) (op : OpCode)
    (body : Controller → LocalResult) : hostCommand op inst s body = .next (s.emit inst [.resp op .error]) := by
  simp [hostCommand, h]

theorem eventStep_known {s : State} {inst : InstId} {x : Controller} (h : s.ctrl? inst = some x)
    (body : Controller → LocalResult) : eventStep inst s body = s.settle inst (body x) := by
  simp [eventStep, h]

theorem eventStep_unknown {s : State} {inst : InstId} (h : s.ctrl? inst = none)
    (body : Controller → LocalResult) : eventStep inst s body = .refused .notAStep := by
  simp [eventStep, h]

/-- A command that raises on a known instance answers the status and changes nothing else. -/
theorem State.settle_raise {s : State} {inst : InstId} {x : Controller} (h : s.ctrl? inst = some x) (op : OpCode)
    (st : Status) : s.settle inst (x.raise op st) = .next (s.emit inst [.resp op st]) := by
  simp [Controller.raise, State.commit_self h]

/-- An event that leaves its instance as it is leaves the state as it is. -/
theorem State.settle_unchanged {s : State} {inst : InstId} {x : Controller} (h : s.ctrl? inst = some x) :
    s.settle inst (.done x []) = .next s := by
  simp [State.commit_self h]

/-! ### The channel -/

/-- A drop only touches the counter. -/
theorem Controller.countDrop_shape (p : Params) (x : Controller) :
    ∃ n : BitVec 32, x.countDrop p = { x with chanDrops := n } ∧
      (p.countDrops = true → n.toNat = min (x.chanDrops.toNat + 1) 0xFFFFFFFF) ∧
      (p.countDrops = false → n = x.chanDrops) := by
  unfold Controller.countDrop
  by_cases h : p.countDrops = true ∧ x.chanDrops.toNat < 0xFFFFFFFF
  · refine ⟨x.chanDrops + 1, by simp [h], fun _ => ?_, fun hc => absurd h.1 (by simp [hc])⟩
    rw [BitVec.toNat_add]
    simp
    omega
  · refine ⟨x.chanDrops, by simp [h], fun hc => ?_, fun _ => rfl⟩
    have hn : ¬ x.chanDrops.toNat < 0xFFFFFFFF := fun hlt => h ⟨hc, hlt⟩
    have := x.chanDrops.isLt
    omega

/-- An enqueue only touches the channel and its counter, keeps the bound, and adds at most the new entry. -/
theorem Controller.chanEnqueue_shape (p : Params) (x : Controller) (f : Frame) :
    ∃ (ch : List Elem) (n : BitVec 32), x.chanEnqueue p f = { x with chan := ch, chanDrops := n } ∧
      (x.chan.length ≤ p.chanCapacity → ch.length ≤ p.chanCapacity) ∧
      ∀ c ∈ ch, c ∈ x.chan ∨ c = encodeChan f := by
  obtain ⟨n, hn, -, -⟩ := Controller.countDrop_shape p x
  unfold Controller.chanEnqueue
  split
  · rename_i hlt
    exact ⟨_, x.chanDrops, rfl, fun _ => by simp; omega, by simp⟩
  · split
    · exact ⟨x.chan, n, by rw [hn], id, fun c hc => .inl hc⟩
    · split
      · exact ⟨x.chan, n, by rw [hn], id, fun c hc => .inl hc⟩
      · rename_i c rest hx
        obtain ⟨m, hm, -, -⟩ := Controller.countDrop_shape p { x with chan := rest ++ [encodeChan f] }
        refine ⟨rest ++ [encodeChan f], m, by rw [hm], fun h => ?_, fun e he => ?_⟩
        · simpa [hx] using h
        · rw [hx]
          simp only [List.mem_append, List.mem_singleton] at he
          exact he.imp (List.mem_cons_of_mem _) id

/-! ### The extractor -/

theorem Controller.extractOne_nil {p : Params} {x : Controller} {q : QueueId} (h : x.rxq q = []) :
    x.extractOne p q = (x, []) := by
  simp [Controller.extractOne, h]

theorem Controller.extractOne_cons {p : Params} {x : Controller} {q : QueueId} {e : Elem} {rest : List Elem}
    (h : x.rxq q = e :: rest) :
    x.extractOne p q = match x.cbRx q with
      | none => (x.setRxq rest q, [])
      | some g => (if g = hChan then (x.setRxq rest q).chanEnqueue p (frameOfElem e) else x.setRxq rest q,
          [.rxCb q g (frameOfElem e)]) := by
  cases hc : x.cbRx q <;> simp [Controller.extractOne, h, hc]

/-- The callbacks an extraction from a queue makes: at most one, with the frame of the oldest element. -/
def Controller.rxEvents (x : Controller) (q : QueueId) : List Event :=
  match x.rxq q, x.cbRx q with
  | e :: _, some h => [.rxCb q h (frameOfElem e)]
  | _, _ => []

/-- An extraction takes the oldest element of its queue, touches nothing else but the channel and its counter (and those only
for `H_CHAN`), keeps the channel's bound, and makes the callback of the queue. -/
theorem Controller.extractOne_shape (p : Params) (x : Controller) (q : QueueId) :
    ∃ (ch : List Elem) (n : BitVec 32),
      x.extractOne p q = ({ x.setRxq (x.rxq q).tail q with chan := ch, chanDrops := n }, x.rxEvents q) ∧
      (x.chan.length ≤ p.chanCapacity → ch.length ≤ p.chanCapacity) ∧
      (∀ c ∈ ch, c ∈ x.chan ∨ ∃ e ∈ x.rxq q, c = encodeChan (frameOfElem e)) ∧
      (x.cbRx q ≠ some hChan → ch = x.chan ∧ n = x.chanDrops) := by
  cases hq : x.rxq q with
  | nil =>
    refine ⟨x.chan, x.chanDrops, ?_, id, fun c hc => .inl hc, fun _ => ⟨rfl, rfl⟩⟩
    rw [Controller.extractOne_nil hq]
    have : x.setRxq [] q = x := by
      cases x
      cases q <;> simp_all [Controller.rxq, Controller.setRxq]
    simp [Controller.rxEvents, hq, this]
  | cons e rest =>
    rw [Controller.extractOne_cons hq]
    cases hc : x.cbRx q with
    | none =>
      exact ⟨x.chan, x.chanDrops, by cases q <;> simp [Controller.rxEvents, hq, hc, Controller.setRxq], id,
        fun c hc => .inl hc, fun _ => ⟨rfl, rfl⟩⟩
    | some g =>
      by_cases hg : g = hChan
      · obtain ⟨ch, n, he, hb, hm⟩ := Controller.chanEnqueue_shape p (x.setRxq rest q) (frameOfElem e)
        refine ⟨ch, n, by simp [Controller.rxEvents, hq, hc, hg, he], by simpa using hb, fun c hcc => ?_, fun h => ?_⟩
        · rcases hm c hcc with h | h
          · exact .inl (by simpa using h)
          · exact .inr ⟨e, by simp, h⟩
        · exact absurd (by rw [hg]) h
      · exact ⟨x.chan, x.chanDrops, by cases q <;> simp [Controller.rxEvents, hq, hc, hg, Controller.setRxq], id,
          fun c hc => .inl hc, fun _ => ⟨rfl, rfl⟩⟩

/-! ### The acceptance filter's verdict and store -/

/-- A high-priority verdict comes from a rule of the table, never from the default action (42_filter.md R99). -/
theorem Controller.classify_highPriority {x : Controller} {id : CanId} {q : QueueId} {slot : Option Nat}
    (h : x.classify id = .decided (.store q true) slot) : ∃ k, slot = some k := by
  unfold Controller.classify at h
  split at h
  · simp only [Classification.decided.injEq] at h
    exact ⟨_, h.2.symm⟩
  · cases h
  · split at h
    · cases h
    · rename_i a _
      cases a <;> simp [DefaultAction.verdict] at h

/-- A store appends to its queue, or marks the loss when the queue is full. -/
theorem Controller.storeFrame_cases (p : Params) (id : CanId) (dlc : Dlc) (data : List Byte) (q : QueueId)
    (x : Controller) :
    ((x.rxq q).length < p.rxqDepth ∧
      x.storeFrame p id dlc data q = (x.setRxq (x.rxq q ++ [encodeElem id dlc data]) q, true)) ∨
    (p.rxqDepth ≤ (x.rxq q).length ∧ x.storeFrame p id dlc data q = (x.markLost q, false)) := by
  unfold Controller.storeFrame
  split
  · exact .inl ⟨‹_›, rfl⟩
  · exact .inr ⟨by omega, rfl⟩

/-- The instance after a store into queue `q`, with the record of a high-priority match in slot `k` if there is one. -/
def Controller.stored (p : Params) (id : CanId) (dlc : Dlc) (data : List Byte) (q : QueueId) (hp : Option Nat)
    (x : Controller) : Controller :=
  let r := x.storeFrame p id dlc data q
  match hp with
  | none => r.1
  | some k => { r.1 with hpStatus := ⟨true, k, q, r.2⟩, irqPending := r.1.irqPending ||| 0x04 }

/-- What the acceptance filter can do with a frame. -/
theorem Controller.acceptFrame_cases (p : Params) (id : CanId) (dlc : Dlc) (data : List Byte) (x : Controller) :
    (x.classify id = .corrupt ∧ x.acceptFrame p id dlc data = .fatal) ∨
    (∃ slot, x.classify id = .decided .discard slot ∧ x.acceptFrame p id dlc data = .done x []) ∨
    (∃ q hp slot, x.classify id = .decided (.store q hp) slot ∧
      x.acceptFrame p id dlc data = .done (x.stored p id dlc data q (if hp then slot else none)) []) := by
  unfold Controller.acceptFrame
  cases hc : x.classify id with
  | corrupt => exact .inl ⟨rfl, rfl⟩
  | decided v slot =>
    cases v with
    | discard => exact .inr (.inl ⟨slot, rfl, rfl⟩)
    | store q hp =>
      refine .inr (.inr ⟨q, hp, slot, rfl, ?_⟩)
      cases hp <;> cases slot <;> rfl

end Sys2Proof.Machine
end

