-- ==== Sys2Proof/Laws/Exec.lean ====
section
/-! SUPPORT. What an executed step can answer, said once: every meaning but TICK acts on the one instance the step names, through
a body that sees nothing of the block but that instance and the parameters. -/

namespace Sys2Proof.Machine

/-- What a step does to the known instance it names. -/
def localBody (p : Params) (i : Instr) (x : Controller) : LocalResult :=
  match i with
  | .init _ prescaler ts1 ts2 sjw action requested =>
      x.initialise p ⟨prescaler, ts1, ts2, sjw⟩ action requested
  | .addFilter _ kind action id1 id2 => x.addFilter p kind action id1 id2
  | .start _ => x.startUp
  | .send _ id length data => x.submit p id length data
  | .stop _ => x.shutDown p
  | .regRxCb _ queueId handler => x.registerRx queueId handler
  | .regErrCb _ handler => .done { x with cbErr := handlerOperand handler } [.resp 0x7 .ok]
  | .regHpCb _ handler => .done { x with cbHp := handlerOperand handler } [.resp 0x8 .ok]
  | .pollRx _ queueId timeout => x.pollReceive p queueId timeout
  | .busRx inst id dlc data rtr =>
      if busRxFormat id dlc then
        if x.cstate ≠ .running ∨ isLoopback p inst ∨ rtr = 1 then .done x []
        else x.acceptFrame p (id.setWidth 11) (dlc.setWidth 4) (payload data (dlcToLen (dlc.setWidth 4)))
      else .refused .notAStep
  | .txXmit inst => if x.txEnabled then x.transmit p inst else .done x []
  | .irqDispatch _ reasons =>
      if x.irqEnabled reasons then .done (x.dispatch p reasons).1 (x.dispatch p reasons).2 else .done x []
  | .busStatus _ reasons =>
      if busStatusFormat reasons then
        if x.cstate = .running then .done (x.latch (reasons &&& errMask)) [] else .done x []
      else .refused .notAStep
  | .tick => .done x []
  | .chanDeq _ => x.dequeue

/-- A step on a known instance is its body, settled. -/
theorem exec_known {s : State} {i : Instr} {inst : InstId} {x : Controller} (hi : i.inst? = some inst)
    (h : s.ctrl? inst = some x) : exec i s = s.settle inst (localBody s.params i x) := by
  cases i <;> cases hi
  case busRx =>
    simp only [exec, execBusRx, localBody]
    split
    · rw [eventStep_known h]
    · rfl
  case busStatus =>
    simp only [exec, execBusStatus, localBody]
    split
    · rw [eventStep_known h]
    · rfl
  case txXmit => exact eventStep_known h _
  case irqDispatch => exact eventStep_known h _
  all_goals exact hostCommand_known h _ _

/-- A host command on an unknown instance answers Error (43_controller.md R103). -/
theorem exec_unknown_host {s : State} {i : Instr} {inst : InstId} (hi : i.inst? = some inst)
    (hh : i.isHostCommand = true) (h : s.ctrl? inst = none) : exec i s = .next (s.emit inst [.resp i.opcode .error]) := by
  cases i <;> cases hi <;> cases hh <;> exact hostCommand_unknown h _ _

/-- An event on an unknown instance is not a step (30_encoding.md R71 (d)). -/
theorem exec_unknown_event {s : State} {i : Instr} {inst : InstId} (hi : i.inst? = some inst)
    (hh : i.isHostCommand = false) (h : s.ctrl? inst = none) : exec i s = .refused .notAStep := by
  cases i <;> cases hi <;> cases hh
  case busRx => simp [exec, execBusRx, eventStep_unknown h]
  case busStatus => simp [exec, execBusStatus, eventStep_unknown h]
  case irqDispatch => simp [exec, execIrqDispatch, eventStep_unknown h]
  case txXmit => simp [exec, execTxXmit, eventStep_unknown h]

/-- Every way a step that names an instance can answer a next state. -/
theorem exec_next_cases {s t : State} {i : Instr} {inst : InstId} (hi : i.inst? = some inst) (h : exec i s = .next t) :
    (s.ctrl? inst = none ∧ i.isHostCommand = true ∧ t = s.emit inst [.resp i.opcode .error]) ∨
    (∃ x, s.ctrl? inst = some x ∧
      ((∃ y evs, localBody s.params i x = .done y evs ∧ t = s.commit inst y evs) ∨
        (localBody s.params i x = .fatal ∧ t = { s with fault := true }))) := by
  cases hc : s.ctrl? inst with
  | none =>
    cases hh : i.isHostCommand with
    | true => exact .inl ⟨rfl, rfl, by simpa [exec_unknown_host hi hh hc] using h.symm⟩
    | false => simp [exec_unknown_event hi hh hc] at h
  | some x =>
    rw [exec_known hi hc] at h
    exact .inr ⟨x, rfl, State.settle_next h⟩

/-- Only TICK names no instance. -/
theorem inst?_eq_none {i : Instr} (h : i.inst? = none) : i = .tick := by
  cases i <;> simp_all [Instr.inst?]

/-- The reasons the decoder gives name the word's own fields. -/
theorem decode_error_cases {w : StepWord} {e : DecodeError} (h : decode w = .error e) :
    e = .illegal (instField w) ∨ e = .malformed (opField w) (instField w) ∨ e = .notAStep := by
  unfold decode at h
  split at h
  · cases h
    exact .inl rfl
  · split at h
    · rename_i h0 _
      unfold decodeFields at h
      split at h <;> cases h
      exact .inl rfl
    · split at h <;> cases h
      · exact .inr (.inl rfl)
      · exact .inr (.inr rfl)

/-- The answer to a word that decodes to no step. -/
theorem rejectWord_next {e : DecodeError} {s t : State} (h : rejectWord e s = .next t) :
    ∃ op inst, t = s.emit inst [.resp op .invalidArgument] := by
  cases e with
  | illegal inst => exact ⟨0x0, inst, by simpa [rejectWord] using h.symm⟩
  | malformed op inst => exact ⟨op, inst, by simpa [rejectWord] using h.symm⟩
  | notAStep => simp [rejectWord] at h

/-- Every way `step` can answer a next state. -/
theorem step_next_cases {s t : State} (h : step s = .next t) :
    s.fault = false ∧
    ((s.schedule = [] ∧ t = s) ∨
     (∃ slot rest, s.schedule = slot :: rest ∧ runSlot slot { s with schedule := rest } = .next t)) := by
  unfold step State.fetch at h
  cases hf : s.fault with
  | true => simp [hf] at h
  | false =>
    refine ⟨rfl, ?_⟩
    cases hs : s.schedule with
    | nil => exact .inl ⟨rfl, by simpa [hf, hs] using h.symm⟩
    | cons slot rest => exact .inr ⟨slot, rest, rfl, by simpa [hf, hs] using h⟩

/-- The completion of a held poll either does nothing or finishes the poll. -/
theorem execPollDone_cases (inst : InstId) (s : State) :
    execPollDone inst s = s ∨
    ∃ x h, s.ctrl? inst = some x ∧ x.poll = some h ∧ x.rxq h.queue ≠ [] ∧
      execPollDone inst s = s.commit inst (x.finishPoll s.params h.queue).1 (x.finishPoll s.params h.queue).2 := by
  unfold execPollDone
  cases hx : s.ctrl? inst with
  | none => exact .inl rfl
  | some x =>
    cases hp : x.poll with
    | none => exact .inl (by simp [hp])
    | some h =>
      by_cases hq : x.rxq h.queue = []
      · exact .inl (by simp [hp, hq])
      · exact .inr ⟨x, h, rfl, hp, hq, by simp [hp, hq]⟩

/-- A resumed dequeue either does nothing or is the dequeue of a non-empty channel. -/
theorem execDeqResume_cases (inst : InstId) (s : State) :
    execDeqResume inst s = .next s ∨
    ∃ x c rest, s.ctrl? inst = some x ∧ x.rxWait = true ∧ x.chan = c :: rest ∧
      execDeqResume inst s =
        .next (s.commit inst { x with chan := rest, rxWait := false } [.deq (decodeChan c), .resp 0xF .ok]) := by
  unfold execDeqResume
  cases hx : s.ctrl? inst with
  | none => exact .inl rfl
  | some x =>
    cases hr : x.deqReady with
    | false => exact .inl (by simp [hr])
    | true =>
      cases hc : x.chan with
      | nil => simp [Controller.deqReady, hc] at hr
      | cons c rest =>
        exact .inr ⟨x, c, rest, rfl, by simpa [Controller.deqReady, hc] using hr, hc,
          by simp [hr, Controller.takeOldest, hc]⟩

/-- A scheduled step that names an instance sees nothing of the block but that instance and the parameters: on a known instance it
is a local body, settled, and on an unknown one it emits for the tag it names or is no step. -/
theorem runSlot_local {slot : Slot} {inst : InstId} (h : slot.inst? = some inst) :
    ∃ (unknown : Option (List Event)) (body : Params → Controller → LocalResult), ∀ s : State,
      runSlot slot s = match s.ctrl? inst with
        | some x => s.settle inst (body s.params x)
        | none => match unknown with
          | some evs => .next (s.emit inst evs)
          | none => .refused .notAStep := by
  cases slot with
  | word w =>
    simp only [Slot.inst?] at h
    cases hd : decode w with
    | ok i =>
      rw [hd] at h
      refine ⟨if i.isHostCommand then some [.resp i.opcode .error] else none, fun p x => localBody p i x, fun s => ?_⟩
      simp only [runSlot, runWord, hd]
      cases hc : s.ctrl? inst with
      | some x => exact exec_known h hc
      | none =>
        cases hh : i.isHostCommand with
        | true => simpa using exec_unknown_host h hh hc
        | false => simpa using exec_unknown_event h hh hc
    | error e =>
      rw [hd] at h
      cases h
      have hi : e = .illegal (instField w) ∨ e = .malformed (opField w) (instField w) ∨ e = .notAStep :=
        decode_error_cases hd
      rcases hi with rfl | rfl | rfl
      · refine ⟨some [.resp 0x0 .invalidArgument], fun _ x => .done x [.resp 0x0 .invalidArgument], fun s => ?_⟩
        simp only [runSlot, runWord, hd, rejectWord]
        cases hc : s.ctrl? (instField w) with
        | some x => simp [State.commit_self hc]
        | none => rfl
      · refine ⟨some [.resp (opField w) .invalidArgument], fun _ x => .done x [.resp (opField w) .invalidArgument],
          fun s => ?_⟩
        simp only [runSlot, runWord, hd, rejectWord]
        cases hc : s.ctrl? (instField w) with
        | some x => simp [State.commit_self hc]
        | none => rfl
      · refine ⟨none, fun _ _ => .refused .notAStep, fun s => ?_⟩
        simp only [runSlot, runWord, hd, rejectWord]
        cases hc : s.ctrl? (instField w) <;> rfl
  | pollDone j =>
    cases h
    refine ⟨some [], fun p x => match x.poll with
      | none => .done x []
      | some h => if x.rxq h.queue = [] then .done x [] else
          .done (x.finishPoll p h.queue).1 (x.finishPoll p h.queue).2, fun s => ?_⟩
    simp only [runSlot, execPollDone]
    cases hc : s.ctrl? inst with
    | none => simp
    | some x =>
      cases hp : x.poll with
      | none => simp [hp, State.commit_self hc]
      | some h => by_cases hq : x.rxq h.queue = [] <;> simp [hp, hq, State.commit_self hc]
  | deqResume j =>
    cases h
    refine ⟨some [], fun _ x => if x.deqReady then x.takeOldest else .done x [], fun s => ?_⟩
    simp only [runSlot, execDeqResume]
    cases hc : s.ctrl? inst with
    | none => simp
    | some x => by_cases hr : x.deqReady = true <;> simp [hr, State.commit_self hc]

/-- An instance-local change kept by every way a step can answer: the principle behind each invariant of an instance. What
`R` must hold of is an unchanged instance, a body's result, a finished poll, a tick and a resumed dequeue. -/
theorem step_ctrl_rel {R : Params → Controller → Controller → Prop} {s t : State}
    (hself : ∀ x ∈ s.ctrls, R s.params x x)
    (hbody : ∀ (i : Instr) (x y : Controller) (evs : List Event), x ∈ s.ctrls →
      localBody s.params i x = .done y evs → R s.params x y)
    (htake : ∀ (x y : Controller) (evs : List Event), x ∈ s.ctrls → x.takeOldest = .done y evs → R s.params x y)
    (hpoll : ∀ (x : Controller) (h : Poll), x ∈ s.ctrls → x.poll = some h → R s.params x (x.finishPoll s.params h.queue).1)
    (htick : ∀ x ∈ s.ctrls, R s.params x (x.tick s.params).1)
    (hstep : step s = .next t) :
    t.params = s.params ∧ t.ctrls.length = s.ctrls.length ∧
      ∀ (k : Nat) (x y : Controller), s.ctrls[k]? = some x → t.ctrls[k]? = some y → R s.params x y := by
  have hsame : ∀ u : State, u.params = s.params → u.ctrls = s.ctrls →
      u.params = s.params ∧ u.ctrls.length = s.ctrls.length ∧
        ∀ (k : Nat) (x y : Controller), s.ctrls[k]? = some x → u.ctrls[k]? = some y → R s.params x y := by
    intro u hp hc
    refine ⟨hp, by rw [hc], fun k x y hx hy => ?_⟩
    rw [hc, hx] at hy
    cases hy
    exact hself x (List.mem_of_getElem? hx)
  have hcommit : ∀ (u : State) (inst : InstId) (x y : Controller) (evs : List Event), u.params = s.params →
      u.ctrls = s.ctrls → s.ctrl? inst = some x → R s.params x y →
      (u.commit inst y evs).params = s.params ∧ (u.commit inst y evs).ctrls.length = s.ctrls.length ∧
        ∀ (k : Nat) (x' y' : Controller), s.ctrls[k]? = some x' → (u.commit inst y evs).ctrls[k]? = some y' →
          R s.params x' y' := by
    intro u inst x y evs hp hc hx hr
    refine ⟨hp, by simp [hc], fun k x' y' hx' hy' => ?_⟩
    by_cases hk : k = inst.toNat
    · subst hk
      have h1 : s.ctrls[inst.toNat]? = some x := hx
      rw [h1] at hx'
      cases hx'
      have hlt := (List.getElem?_eq_some_iff.mp h1).1
      simp [hc, hlt] at hy'
      rwa [← hy']
    · rw [State.ctrls_commit_ne u hk, hc, hx'] at hy'
      cases hy'
      exact hself _ (List.mem_of_getElem? hx')
  obtain ⟨-, ⟨-, rfl⟩ | ⟨slot, rest, -, hrun⟩⟩ := step_next_cases hstep
  · exact hsame _ rfl rfl
  · cases slot with
    | word w =>
      simp only [runSlot, runWord] at hrun
      cases hd : decode w with
      | error e =>
        rw [hd] at hrun
        obtain ⟨op, inst, rfl⟩ := rejectWord_next hrun
        exact hsame _ rfl rfl
      | ok i =>
        rw [hd] at hrun
        cases hi : i.inst? with
        | none =>
          cases inst?_eq_none hi
          simp only [exec, execTick, Host.Outcome.next.injEq] at hrun
          subst hrun
          have hgen : ∀ (p : Params) (l : List Controller) (n k : Nat),
              (tickFrom p n l).1[k]? = l[k]?.map fun x => (x.tick p).1 := by
            intro p l
            induction l with
            | nil => intro n k; simp [tickFrom]
            | cons a l ih =>
              intro n k
              cases k with
              | zero => simp [tickFrom]
              | succ k => simpa [tickFrom] using ih (n + 1) k
          have hlen : ∀ (p : Params) (l : List Controller) (n : Nat), (tickFrom p n l).1.length = l.length := by
            intro p l
            induction l with
            | nil => intro n; simp [tickFrom]
            | cons a l ih => intro n; simpa [tickFrom] using ih (n + 1)
          refine ⟨rfl, hlen _ _ _, fun k x y hx hy => ?_⟩
          simp only [hgen, hx, Option.map_some, Option.some.injEq] at hy
          subst hy
          exact htick x (List.mem_of_getElem? hx)
        | some inst =>
          rcases exec_next_cases hi hrun with ⟨-, -, rfl⟩ | ⟨x, hx, ⟨y, evs, hb, rfl⟩ | ⟨-, rfl⟩⟩
          · exact hsame _ rfl rfl
          · have hmem : x ∈ s.ctrls := List.mem_of_getElem? hx
            exact hcommit _ inst x y evs rfl rfl hx (hbody i x y evs hmem hb)
          · exact hsame _ rfl rfl
    | pollDone inst =>
      simp only [runSlot, Host.Outcome.next.injEq] at hrun
      subst hrun
      rcases execPollDone_cases inst { s with schedule := rest } with h | ⟨x, h, hx, hp, -, he⟩
      · rw [h]; exact hsame _ rfl rfl
      · rw [he]; exact hcommit _ inst x _ _ rfl rfl hx (hpoll x h (List.mem_of_getElem? hx) hp)
    | deqResume inst =>
      simp only [runSlot] at hrun
      rcases execDeqResume_cases inst { s with schedule := rest } with h | ⟨x, c, r, hx, -, hc, he⟩
      · rw [h] at hrun
        cases hrun
        exact hsame _ rfl rfl
      · rw [he] at hrun
        cases hrun
        refine hcommit _ inst x _ _ rfl rfl hx (htake x _ [.deq (decodeChan c), .resp 0xF .ok]
          (List.mem_of_getElem? hx) ?_)
        simp [Controller.takeOldest, hc]

end Sys2Proof.Machine
end

