-- ==== Sys2Proof/Laws/PerInstr.lean ====
section
/-! SUPPORT. The family Encoding: what every step's word carries whatever its operands (30_encoding.md R61, R70, R71): its op, the
instance it names, and its must-be-0 bits 0. -/

namespace Sys2Proof.Laws.Encoding

/-- The word of a step has the step's op and instance, and every must-be-0 bit 0. -/
def Statement (i : Instr) : Prop :=
  opField (encode i) = i.opcode ∧ instField (encode i) = i.inst?.getD 0 ∧
    (WellFormed i → fixedBitsRight (encode i) = true)

theorem fixed_of {w : StepWord} {op : OpCode} (h : opField w = op)
    (hm : w &&& fixedMask op = op ++ (0 : BitVec 124)) : fixedBitsRight w = true := by
  subst h
  simpa [fixedBitsRight] using hm

theorem init (inst : InstId) (prescaler ts1 ts2 sjw : BitVec 16) (action : BitVec 8) (requested : Reasons) :
    Statement (.init inst prescaler ts1 ts2 sjw action requested) := by
  have ho : opField (encode (.init inst prescaler ts1 ts2 sjw action requested)) = 1 := by
    simp only [opField, encode]
    repeat (rw [BitVec.extractLsb'_append_eq_of_le]; rotate_left; · decide)
    exact BitVec.extractLsb'_eq_self
  refine ⟨ho, ?_, fun _ => fixed_of ho ?_⟩
  · simp only [instField, encode]
    repeat (first
      | (rw [BitVec.extractLsb'_append_eq_of_le]; rotate_left; · decide)
      | (rw [BitVec.extractLsb'_append_eq_of_add_le]; rotate_left; · decide))
    exact BitVec.extractLsb'_eq_self
  · have hm : fixedMask 1 = 0xF#4 ++ 0#4 ++ 0#16 ++ 0#16 ++ 0#16 ++ 0#16 ++ 0#8 ++ 3#2 ++ 0#6 ++ 0xFFFFFFFFFF#40 := rfl
    rw [hm, encode]
    repeat rw [BitVec.and_append]
    simp only [BitVec.and_zero]
    rfl

theorem addFilter (inst : InstId) (kind action : BitVec 8) (id1 id2 : BitVec 16) :
    Statement (.addFilter inst kind action id1 id2) := by
  have ho : opField (encode (.addFilter inst kind action id1 id2)) = 2 := by
    simp only [opField, encode]
    repeat (rw [BitVec.extractLsb'_append_eq_of_le]; rotate_left; · decide)
    exact BitVec.extractLsb'_eq_self
  refine ⟨ho, ?_, fun _ => fixed_of ho ?_⟩
  · simp only [instField, encode]
    repeat (first
      | (rw [BitVec.extractLsb'_append_eq_of_le]; rotate_left; · decide)
      | (rw [BitVec.extractLsb'_append_eq_of_add_le]; rotate_left; · decide))
    exact BitVec.extractLsb'_eq_self
  · have hm : fixedMask 2 = 0xF#4 ++ 0#4 ++ 0#8 ++ 0#8 ++ 0#16 ++ 0#16 ++ 0xFFFFFFFFFFFFFFFFFF#72 := rfl
    rw [hm, encode]
    repeat rw [BitVec.and_append]
    simp only [BitVec.and_zero]
    rfl

theorem start (inst : InstId) :
    Statement (.start inst) := by
  have ho : opField (encode (.start inst)) = 3 := by
    simp only [opField, encode]
    repeat (rw [BitVec.extractLsb'_append_eq_of_le]; rotate_left; · decide)
    exact BitVec.extractLsb'_eq_self
  refine ⟨ho, ?_, fun _ => fixed_of ho ?_⟩
  · simp only [instField, encode]
    repeat (first
      | (rw [BitVec.extractLsb'_append_eq_of_le]; rotate_left; · decide)
      | (rw [BitVec.extractLsb'_append_eq_of_add_le]; rotate_left; · decide))
    exact BitVec.extractLsb'_eq_self
  · have hm : fixedMask 3 = 0xF#4 ++ 0#4 ++ 0xFFFFFFFFFFFFFFFFFFFFFFFFFFFFFF#120 := rfl
    rw [hm, encode]
    repeat rw [BitVec.and_append]
    simp only [BitVec.and_zero]
    rfl

theorem send (inst : InstId) (id : BitVec 16) (length : BitVec 8) (data : BitVec 64) :
    Statement (.send inst id length data) := by
  have ho : opField (encode (.send inst id length data)) = 4 := by
    simp only [opField, encode]
    repeat (rw [BitVec.extractLsb'_append_eq_of_le]; rotate_left; · decide)
    exact BitVec.extractLsb'_eq_self
  refine ⟨ho, ?_, fun _ => fixed_of ho ?_⟩
  · simp only [instField, encode]
    repeat (first
      | (rw [BitVec.extractLsb'_append_eq_of_le]; rotate_left; · decide)
      | (rw [BitVec.extractLsb'_append_eq_of_add_le]; rotate_left; · decide))
    exact BitVec.extractLsb'_eq_self
  · have hm : fixedMask 4 = 0xF#4 ++ 0#4 ++ 0#16 ++ 0#8 ++ 0#64 ++ 0xFFFFFFFF#32 := rfl
    rw [hm, encode]
    repeat rw [BitVec.and_append]
    simp only [BitVec.and_zero]
    rfl

theorem stop (inst : InstId) :
    Statement (.stop inst) := by
  have ho : opField (encode (.stop inst)) = 5 := by
    simp only [opField, encode]
    repeat (rw [BitVec.extractLsb'_append_eq_of_le]; rotate_left; · decide)
    exact BitVec.extractLsb'_eq_self
  refine ⟨ho, ?_, fun _ => fixed_of ho ?_⟩
  · simp only [instField, encode]
    repeat (first
      | (rw [BitVec.extractLsb'_append_eq_of_le]; rotate_left; · decide)
      | (rw [BitVec.extractLsb'_append_eq_of_add_le]; rotate_left; · decide))
    exact BitVec.extractLsb'_eq_self
  · have hm : fixedMask 5 = 0xF#4 ++ 0#4 ++ 0xFFFFFFFFFFFFFFFFFFFFFFFFFFFFFF#120 := rfl
    rw [hm, encode]
    repeat rw [BitVec.and_append]
    simp only [BitVec.and_zero]
    rfl

theorem regRxCb (inst : InstId) (queueId : BitVec 8) (handler : Handler) :
    Statement (.regRxCb inst queueId handler) := by
  have ho : opField (encode (.regRxCb inst queueId handler)) = 6 := by
    simp only [opField, encode]
    repeat (rw [BitVec.extractLsb'_append_eq_of_le]; rotate_left; · decide)
    exact BitVec.extractLsb'_eq_self
  refine ⟨ho, ?_, fun _ => fixed_of ho ?_⟩
  · simp only [instField, encode]
    repeat (first
      | (rw [BitVec.extractLsb'_append_eq_of_le]; rotate_left; · decide)
      | (rw [BitVec.extractLsb'_append_eq_of_add_le]; rotate_left; · decide))
    exact BitVec.extractLsb'_eq_self
  · have hm : fixedMask 6 = 0xF#4 ++ 0#4 ++ 0#8 ++ 0#32 ++ 0xFFFFFFFFFFFFFFFFFFFF#80 := rfl
    rw [hm, encode]
    repeat rw [BitVec.and_append]
    simp only [BitVec.and_zero]
    rfl

theorem regErrCb (inst : InstId) (handler : Handler) :
    Statement (.regErrCb inst handler) := by
  have ho : opField (encode (.regErrCb inst handler)) = 7 := by
    simp only [opField, encode]
    repeat (rw [BitVec.extractLsb'_append_eq_of_le]; rotate_left; · decide)
    exact BitVec.extractLsb'_eq_self
  refine ⟨ho, ?_, fun _ => fixed_of ho ?_⟩
  · simp only [instField, encode]
    repeat (first
      | (rw [BitVec.extractLsb'_append_eq_of_le]; rotate_left; · decide)
      | (rw [BitVec.extractLsb'_append_eq_of_add_le]; rotate_left; · decide))
    exact BitVec.extractLsb'_eq_self
  · have hm : fixedMask 7 = 0xF#4 ++ 0#4 ++ 0xFF#8 ++ 0#32 ++ 0xFFFFFFFFFFFFFFFFFFFF#80 := rfl
    rw [hm, encode]
    repeat rw [BitVec.and_append]
    simp only [BitVec.and_zero]
    rfl

theorem regHpCb (inst : InstId) (handler : Handler) :
    Statement (.regHpCb inst handler) := by
  have ho : opField (encode (.regHpCb inst handler)) = 8 := by
    simp only [opField, encode]
    repeat (rw [BitVec.extractLsb'_append_eq_of_le]; rotate_left; · decide)
    exact BitVec.extractLsb'_eq_self
  refine ⟨ho, ?_, fun _ => fixed_of ho ?_⟩
  · simp only [instField, encode]
    repeat (first
      | (rw [BitVec.extractLsb'_append_eq_of_le]; rotate_left; · decide)
      | (rw [BitVec.extractLsb'_append_eq_of_add_le]; rotate_left; · decide))
    exact BitVec.extractLsb'_eq_self
  · have hm : fixedMask 8 = 0xF#4 ++ 0#4 ++ 0xFF#8 ++ 0#32 ++ 0xFFFFFFFFFFFFFFFFFFFF#80 := rfl
    rw [hm, encode]
    repeat rw [BitVec.and_append]
    simp only [BitVec.and_zero]
    rfl

theorem pollRx (inst : InstId) (queueId : BitVec 8) (timeout : BitVec 32) :
    Statement (.pollRx inst queueId timeout) := by
  have ho : opField (encode (.pollRx inst queueId timeout)) = 9 := by
    simp only [opField, encode]
    repeat (rw [BitVec.extractLsb'_append_eq_of_le]; rotate_left; · decide)
    exact BitVec.extractLsb'_eq_self
  refine ⟨ho, ?_, fun _ => fixed_of ho ?_⟩
  · simp only [instField, encode]
    repeat (first
      | (rw [BitVec.extractLsb'_append_eq_of_le]; rotate_left; · decide)
      | (rw [BitVec.extractLsb'_append_eq_of_add_le]; rotate_left; · decide))
    exact BitVec.extractLsb'_eq_self
  · have hm : fixedMask 9 = 0xF#4 ++ 0#4 ++ 0#8 ++ 0#32 ++ 0xFFFFFFFFFFFFFFFFFFFF#80 := rfl
    rw [hm, encode]
    repeat rw [BitVec.and_append]
    simp only [BitVec.and_zero]
    rfl

theorem busRx (inst : InstId) (id : BitVec 16) (dlc : BitVec 8) (data : BitVec 64) (rtr : BitVec 1) :
    Statement (.busRx inst id dlc data rtr) := by
  have ho : opField (encode (.busRx inst id dlc data rtr)) = 10 := by
    simp only [opField, encode]
    repeat (rw [BitVec.extractLsb'_append_eq_of_le]; rotate_left; · decide)
    exact BitVec.extractLsb'_eq_self
  refine ⟨ho, ?_, fun _ => fixed_of ho ?_⟩
  · simp only [instField, encode]
    repeat (first
      | (rw [BitVec.extractLsb'_append_eq_of_le]; rotate_left; · decide)
      | (rw [BitVec.extractLsb'_append_eq_of_add_le]; rotate_left; · decide))
    exact BitVec.extractLsb'_eq_self
  · have hm : fixedMask 10 = 0xF#4 ++ 0#4 ++ 0#16 ++ 0#8 ++ 0#64 ++ 0x7F#7 ++ 0#1 ++ 0xFFFFFF#24 := rfl
    rw [hm, encode]
    repeat rw [BitVec.and_append]
    simp only [BitVec.and_zero]
    rfl

theorem txXmit (inst : InstId) :
    Statement (.txXmit inst) := by
  have ho : opField (encode (.txXmit inst)) = 11 := by
    simp only [opField, encode]
    repeat (rw [BitVec.extractLsb'_append_eq_of_le]; rotate_left; · decide)
    exact BitVec.extractLsb'_eq_self
  refine ⟨ho, ?_, fun _ => fixed_of ho ?_⟩
  · simp only [instField, encode]
    repeat (first
      | (rw [BitVec.extractLsb'_append_eq_of_le]; rotate_left; · decide)
      | (rw [BitVec.extractLsb'_append_eq_of_add_le]; rotate_left; · decide))
    exact BitVec.extractLsb'_eq_self
  · have hm : fixedMask 11 = 0xF#4 ++ 0#4 ++ 0xFFFFFFFFFFFFFFFFFFFFFFFFFFFFFF#120 := rfl
    rw [hm, encode]
    repeat rw [BitVec.and_append]
    simp only [BitVec.and_zero]
    rfl

theorem irqDispatch (inst : InstId) (reasons : Reasons) :
    Statement (.irqDispatch inst reasons) := by
  have ho : opField (encode (.irqDispatch inst reasons)) = 12 := by
    simp only [opField, encode]
    repeat (rw [BitVec.extractLsb'_append_eq_of_le]; rotate_left; · decide)
    exact BitVec.extractLsb'_eq_self
  refine ⟨ho, ?_, fun _ => fixed_of ho ?_⟩
  · simp only [instField, encode]
    repeat (first
      | (rw [BitVec.extractLsb'_append_eq_of_le]; rotate_left; · decide)
      | (rw [BitVec.extractLsb'_append_eq_of_add_le]; rotate_left; · decide))
    exact BitVec.extractLsb'_eq_self
  · have hm : fixedMask 12 = 0xF#4 ++ 0#4 ++ 3#2 ++ 0#6 ++ 0xFFFFFFFFFFFFFFFFFFFFFFFFFFFF#112 := rfl
    rw [hm, encode]
    repeat rw [BitVec.and_append]
    simp only [BitVec.and_zero]
    rfl

theorem busStatus (inst : InstId) (reasons : Reasons) :
    Statement (.busStatus inst reasons) := by
  have ho : opField (encode (.busStatus inst reasons)) = 13 := by
    simp only [opField, encode]
    repeat (rw [BitVec.extractLsb'_append_eq_of_le]; rotate_left; · decide)
    exact BitVec.extractLsb'_eq_self
  refine ⟨ho, ?_, fun hw => fixed_of ho ?_⟩
  · simp only [instField, encode]
    repeat (first
      | (rw [BitVec.extractLsb'_append_eq_of_le]; rotate_left; · decide)
      | (rw [BitVec.extractLsb'_append_eq_of_add_le]; rotate_left; · decide))
    exact BitVec.extractLsb'_eq_self
  · have hr : reasons &&& 7#6 = 0#6 := by
      simp only [WellFormed, Instr.wellFormed, busStatusFormat, Bool.and_eq_true, decide_eq_true_eq] at hw
      exact hw.1
    have hm : fixedMask 13 = 0xF#4 ++ 0#4 ++ 3#2 ++ 7#6 ++ 0xFFFFFFFFFFFFFFFFFFFFFFFFFFFF#112 := rfl
    rw [hm, encode]
    repeat rw [BitVec.and_append]
    rw [BitVec.and_zero, hr]
    rfl

theorem tick : Statement .tick := ⟨by decide, by decide, fun _ => by decide⟩

theorem chanDeq (inst : InstId) :
    Statement (.chanDeq inst) := by
  have ho : opField (encode (.chanDeq inst)) = 15 := by
    simp only [opField, encode]
    repeat (rw [BitVec.extractLsb'_append_eq_of_le]; rotate_left; · decide)
    exact BitVec.extractLsb'_eq_self
  refine ⟨ho, ?_, fun _ => fixed_of ho ?_⟩
  · simp only [instField, encode]
    repeat (first
      | (rw [BitVec.extractLsb'_append_eq_of_le]; rotate_left; · decide)
      | (rw [BitVec.extractLsb'_append_eq_of_add_le]; rotate_left; · decide))
    exact BitVec.extractLsb'_eq_self
  · have hm : fixedMask 15 = 0xF#4 ++ 0#4 ++ 0xFFFFFFFFFFFFFFFFFFFFFFFFFFFFFF#120 := rfl
    rw [hm, encode]
    repeat rw [BitVec.and_append]
    simp only [BitVec.and_zero]
    rfl

/-- The family's statement holds of every step. -/
theorem statement_of (i : Instr) : Statement i := by
  cases i with
  | init => exact init ..
  | addFilter => exact addFilter ..
  | start => exact start ..
  | send => exact send ..
  | stop => exact stop ..
  | regRxCb => exact regRxCb ..
  | regErrCb => exact regErrCb ..
  | regHpCb => exact regHpCb ..
  | pollRx => exact pollRx ..
  | busRx => exact busRx ..
  | txXmit => exact txXmit ..
  | irqDispatch => exact irqDispatch ..
  | busStatus => exact busStatus ..
  | tick => exact tick
  | chanDeq => exact chanDeq ..

end Sys2Proof.Laws.Encoding
end

