-- ==== Sys2Proof/Tests/Slice0.lean ====
section
/-! SUPPORT. The model's own tests. Expected values come from spec/95_test_vectors.md (its section is named at each group) or,
for the witnesses, from the hypotheses of the statement named. -/

namespace Sys2Proof.Machine.Tests

open Sys2Proof Sys2Proof.Machine

set_option Elab.async false

/-! ### Small states -/

/-- Instance 0 is `x`, instance 1 is after power-on. -/
def atZero (x : Controller) : State := { State.reset with ctrls := [x, Controller.powerOn Params.defaults] }

/-- The same with `LOOPBACK[0] = true`. -/
def looped (x : Controller) : State := { atZero x with params := { Params.defaults with loopback := [true, false] } }

/-- The block with one step scheduled. -/
def offered (s : State) (slot : Slot) : State := { s with schedule := [slot] }

/-- An instance after power-on. -/
def fresh : Controller := Controller.powerOn Params.defaults

/-- An instance after `INIT 0, 1, 139, 20, 20, RejectAll, m`. -/
def ready (m : Reasons) : Controller :=
  { fresh with cstate := .configured, bt := some ⟨1, 139, 20, 20⟩, defaultAction := some .rejectAll, irqEnable := m }

/-- The same, Running. -/
def live (m : Reasons) : Controller := { ready m with cstate := .running }

/-- The filter table T of 95_test_vectors.md section 4. -/
def tableT : List (Option FilterRule) :=
  [some ⟨.range, .toQ0, 0x100, 0x1FF⟩, some ⟨.mask, .toQ1Hp, 0x200, 0x700⟩, some ⟨.dualId, .reject, 0x150, 0x300⟩,
    some ⟨.range, .toQ1, 0x140, 0x160⟩, some ⟨.mask, .reject, 0x400, 0x400⟩, some ⟨.range, .toQ0Hp, 0x7F0, 0x7FF⟩] ++
    List.replicate 22 none

/-- A Running instance with table T. -/
def liveT (m : Reasons) : Controller := { live m with filters := tableT, nextSlot := 6 }

/-- What section 8's first table starts from, its counts of queued frames cut to what one dispatch needs. -/
def pendingT : Controller :=
  { liveT 0x07 with
    rxq0 := [0x000000000000221100020150, 0x000000000000000000000141], rxq1 := [0x0000000000000055000102AB]
    irqPending := 0x04, hpStatus := ⟨true, 1, .q1, false⟩, cbRx0 := some 1, cbRx1 := some 0xB000, cbHp := some 0xA000 }

/-- The events a step adds to the trace, none when it does not answer a next state. -/
def eventsOf (i : Instr) (s : State) : Option (List Event) :=
  match exec i s with
  | .next t => some ((t.trace.drop s.trace.length).map TraceEntry.event)
  | .fault _ => none
  | .refused _ => none

/-- Instance 0 after a step. -/
def after (i : Instr) (s : State) : Option Controller :=
  match exec i s with
  | .next t => t.ctrl? 0
  | .fault _ => none
  | .refused _ => none

/-- Is the answer a next state? -/
def answersNext : Host.Outcome State Fault Refusal → Bool
  | .next _ => true
  | .fault _ => false
  | .refused _ => false

theorem next_of {o : Host.Outcome State Fault Refusal} (h : answersNext o = true) : ∃ t, o = .next t := by
  cases o with
  | next t => exact ⟨t, rfl⟩
  | fault r => cases h
  | refused r => cases h

/-- Is the answer this refusal? -/
def refusedWith (r : Refusal) : Host.Outcome State Fault Refusal → Bool
  | .refused r' => decide (r' = r)
  | .next _ => false
  | .fault _ => false

/-- Is the answer this fault? -/
def faultedWith (r : Fault) : Host.Outcome State Fault Refusal → Bool
  | .fault r' => decide (r' = r)
  | .next _ => false
  | .refused _ => false

/-- Does the answer set the sticky flag? -/
def setsFault : Host.Outcome State Fault Refusal → Bool
  | .next t => t.fault
  | .fault _ => false
  | .refused _ => false

/-! ### Well-formedness: an ill-formed step for each check (30_encoding.md R68, R69, R71 (d)) -/

theorem test_illFormed_busRx_id : ¬ WellFormed (.busRx 0 0x800 0 0 0) := by decide
theorem test_illFormed_busRx_dlc : ¬ WellFormed (.busRx 0 1 16 0 0) := by decide
theorem test_illFormed_busStatus_empty : ¬ WellFormed (.busStatus 0 0) := by decide
theorem test_illFormed_busStatus_bit2 : ¬ WellFormed (.busStatus 0 0x0C) := by decide
theorem test_wellFormed_edges : WellFormed (.busRx 0 0x7FF 15 0 1) ∧ WellFormed (.busStatus 0 0x38) ∧
    WellFormed (.send 0 0x800 9 0) := by decide

/-! ### Decoding: words written out in 95_test_vectors.md section 5, one for every constructor -/

theorem test_decode_init : decode 0x110002000D00020001003A0000000000#128 = .ok (.init 1 2 13 2 1 0 0x3A) := by decide +kernel
theorem test_decode_addFilter : decode 0x21010201500300000000000000000000#128 = .ok (.addFilter 1 1 2 0x150 0x300) := by
  decide +kernel
theorem test_decode_start : decode 0x31000000000000000000000000000000#128 = .ok (.start 1) := by decide +kernel
theorem test_decode_send : decode 0x4007FF08080706050403020100000000#128 = .ok (.send 0 0x7FF 8 0x0807060504030201) := by
  decide +kernel
theorem test_decode_stop : decode 0x50000000000000000000000000000000#128 = .ok (.stop 0) := by decide +kernel
theorem test_decode_regRxCb : decode 0x60010000B00000000000000000000000#128 = .ok (.regRxCb 0 1 0xB000) := by decide +kernel
theorem test_decode_regErrCb : decode 0x70000000E00000000000000000000000#128 = .ok (.regErrCb 0 0xE000) := by
  decide +kernel
theorem test_decode_regHpCb : decode 0x81000000A00000000000000000000000#128 = .ok (.regHpCb 1 0xA000) := by decide +kernel
theorem test_decode_pollRx : decode 0x90010000000500000000000000000000#128 = .ok (.pollRx 0 1 5) := by decide +kernel
theorem test_decode_busRx : decode 0xA103210C020304050607080900000000#128 =
    .ok (.busRx 1 0x321 12 0x0203040506070809 0) := by decide +kernel
theorem test_decode_busRx_remote : decode 0xA0015000000000000000000001000000#128 = .ok (.busRx 0 0x150 0 0 1) := by
  decide +kernel
theorem test_decode_txXmit : decode 0xB0000000000000000000000000000000#128 = .ok (.txXmit 0) := by decide +kernel
theorem test_decode_irqDispatch : decode 0xC0210000000000000000000000000000#128 = .ok (.irqDispatch 0 0x21) := by
  decide +kernel
theorem test_decode_busStatus : decode 0xD1380000000000000000000000000000#128 = .ok (.busStatus 1 0x38) := by
  decide +kernel
theorem test_decode_tick : decode 0xE0000000000000000000000000000000#128 = .ok .tick := by decide +kernel
theorem test_decode_chanDeq : decode 0xF1000000000000000000000000000000#128 = .ok (.chanDeq 1) := by decide +kernel

/-- The illegal and malformed words of section 5, and the words that are no step. -/
theorem test_decode_rejects :
    [0x00000000000000000000000000000000#128, 0x30000000000000000000000000000001#128,
      0x100001008B0014001402430000000000#128, 0x70010000E00000000000000000000000#128,
      0x400123030000000000CCBBAA00000010#128, 0xE1000000000000000000000000000000#128,
      0xC0400000000000000000000000000000#128, 0xD0010000000000000000000000000000#128].map decode =
    [.error (.illegal 0), .error (.malformed 3 0), .error (.malformed 1 0), .error (.malformed 7 0),
      .error (.malformed 4 0), .error .notAStep, .error .notAStep, .error .notAStep] := by decide +kernel

theorem test_decodeTableWord : decodeTableWord 128 0xC0070000000000000000000000000000 = some (.irqDispatch 0 0x07) := by
  decide +kernel

theorem test_text_send : (Instr.send 0 0x123 3 0xCCBBAA).text = "SEND 0, 291, 3, [170 187 204 0 0 0 0 0]" := by
  decide +kernel

/-! ### The frame codec (section 2) -/

theorem test_encodeElem : encodeElem 0x123 3 [0xAA, 0xBB, 0xCC] = 0x0000000000CCBBAA00030123 ∧
    encodeElem 0x7FE 15 [0x80, 0, 0, 0, 0, 0, 0, 1] = 0x0100000000000080000F07FE := by decide +kernel
theorem test_decodeElem : decodeElem 0x0000000000CCBBAAFFF3F923 = (0x123, 3, [0xAA, 0xBB, 0xCC]) := by decide +kernel
theorem test_frameOfElem : frameOfElem 0xA8A7A6A5A4A3A2A1000907FF =
    ⟨0x7FF, 8, [0xA1, 0xA2, 0xA3, 0xA4, 0xA5, 0xA6, 0xA7, 0xA8]⟩ := by decide +kernel
theorem test_decodeChan : decodeChan 0x0807060504030201000E0150 = ⟨0x150, 8, [1, 2, 3, 4, 5, 6, 7, 8]⟩ := by decide +kernel
theorem test_encodeChan : encodeChan ⟨0x2AB, 1, [0x55]⟩ = 0x0000000000000055000102AB := by decide +kernel
theorem test_serialBody : natOfBits (serialBody 0x555 1 [0xFF]) = 0b10101010101000000111111111 ∧
    parseSerialBody (serialBody 0x555 1 [0xFF]) = some (0x555, 1, [0xFF]) := by decide +kernel
theorem test_packed_rules : (FilterRule.packed ⟨.mask, .toQ1Hp, 0x200, 0x700⟩ = 0xA2000700) ∧
    (FilterRule.packed ⟨.dualId, .reject, 0x150, 0x300⟩ = 0x51500300) := by decide +kernel
theorem test_packed_descriptor : HpStatus.packed ⟨true, 1, .q1, false⟩ = 0xA1 := by decide +kernel

/-! ### Bit timing (section 3) -/

theorem test_bitrate : bitCycles ⟨4, 15, 4, 4⟩ = 80 ∧ bitrate ⟨4, 15, 4, 4⟩ 80000000 = 1000000 ∧
    samplePoint ⟨4, 15, 4, 4⟩ = 4 / 5 := by decide +kernel
theorem test_btLegal : [⟨512, 256, 128, 128⟩, ⟨0, 13, 2, 1⟩, ⟨1, 257, 2, 1⟩, ⟨1, 13, 129, 1⟩, ⟨1, 2, 13, 128⟩].map
    (btLegal Params.defaults) = [true, false, false, false, true] := by decide
theorem test_derivable : derivable ⟨1, 139, 20, 77⟩ 80000000 500000 = true ∧
    derivable ⟨2, 13, 2, 1⟩ 8000000 500000 = false := by decide
theorem test_quantizeRef : quantizeRef Params.defaults 80000000 10000 = some ⟨32, 217, 32, 32⟩ ∧
    quantizeRef Params.defaults 170000000 500000 = some ⟨2, 147, 22, 22⟩ := by decide +kernel
theorem test_quantizeRef_none : quantizeRef Params.defaults 2000000 1000000 = none ∧
    quantizeRef Params.defaults 80000000 300000 = none := by decide +kernel

/-! ### The acceptance filter (section 4) -/

theorem test_matchRange : [0x0FF, 0x100, 0x1FF, 0x200].map (matchRange 0x100 0x1FF) = [false, true, true, false] := by decide
theorem test_matchMask : [0x200, 0x2AB, 0x300, 0x600].map (matchMask 0x2FF 0x700) = [true, true, false, false] := by decide
theorem test_classify : [0x0FF, 0x150, 0x2AB, 0x300, 0x7F5].map (liveT 0).classify =
    [.decided .discard none, .decided (.store .q0 false) (some 0), .decided (.store .q1 true) (some 1),
      .decided .discard (some 2), .decided .discard (some 4)] := by decide +kernel
theorem test_addFilter : eventsOf (.addFilter 0 0 0 0x200 0x100) (atZero (ready 0)) = some [.resp 2 .ok] ∧
    (after (.addFilter 0 0 0 0x200 0x100) (atZero (ready 0))).map (fun x => (x.filters.head?, x.nextSlot)) =
      some (some (some ⟨.range, .toQ0, 0x200, 0x100⟩), 1) := by decide +kernel
theorem test_addFilter_order : eventsOf (.addFilter 0 3 0 0 0) (atZero (live 0)) = some [.resp 2 .error] ∧
    eventsOf (.addFilter 0 2 1 0 0x800) (atZero (ready 0)) = some [.resp 2 .invalidArgument] := by decide +kernel

/-! ### The lifecycle (section 6) -/

theorem test_init_enables : (after (.init 0 1 139 20 20 2 0x3C) (atZero (ready 0))).map (·.irqEnable) = some 0x38 ∧
    (after (.init 0 1 139 20 20 2 0x02) (atZero (ready 0))).map (·.irqEnable) = some 0x06 := by decide +kernel
theorem test_init_late_failure : eventsOf (.init 0 2 13 2 1 3 0x03) (atZero (ready 0x07)) = some [.resp 1 .error] ∧
    (after (.init 0 2 13 2 1 3 0x03) (atZero (ready 0x07))).map (fun x => (x.cstate, x.bt, x.irqEnable)) =
      some (.uninitialized, some ⟨2, 13, 2, 1⟩, 0) := by decide +kernel
theorem test_init_late_failure_onSuccess : (after (.init 0 2 13 2 1 3 0x03)
    { atZero (ready 0x07) with params := { Params.defaults with btWrite := .onSuccess } }).map (fun x => (x.cstate, x.bt)) =
      some (.uninitialized, some ⟨1, 139, 20, 20⟩) := by decide +kernel
theorem test_start : eventsOf (.start 0) (atZero (ready 0)) = some [.resp 3 .ok] ∧
    (after (.start 0) (atZero (ready 0))).map (·.cstate) = some .running := by decide +kernel
theorem test_start_unknown : eventsOf (.start 2) State.reset = some [.resp 3 .error] := by decide +kernel
theorem test_stop_held_poll : eventsOf (.stop 0) (atZero { live 0 with poll := some ⟨.q1, 5⟩, cbErr := some 7 }) =
    some [.pollDone .notStarted, .resp 5 .ok] ∧
    after (.stop 0) (atZero { live 0 with poll := some ⟨.q1, 5⟩, cbErr := some 7 }) =
      some { fresh with bt := some ⟨1, 139, 20, 20⟩, defaultAction := some .rejectAll } := by decide +kernel
theorem test_stop_configured : eventsOf (.stop 0) (atZero (ready 0)) = some [.resp 5 .notStarted] := by decide +kernel
theorem test_regRxCb : (after (.regRxCb 0 1 1) (atZero fresh)).map (fun x => (x.cbRx0, x.cbRx1)) = some (none, some 1) ∧
    eventsOf (.regRxCb 0 2 1) (atZero fresh) = some [.resp 6 .invalidArgument] := by decide +kernel
theorem test_regErrCb : (after (.regErrCb 0 0xE000) (atZero fresh)).map (·.cbErr) = some (some 0xE000) := by decide +kernel
theorem test_regHpCb : (after (.regHpCb 0 0) (atZero { fresh with cbHp := some 9 })).map (·.cbHp) = some none := by
  decide +kernel

/-! ### Transmit and receive (section 7) -/

theorem test_send : (after (.send 0 0x102 2 0xEEEE0302) (atZero (live 0))).map (·.txq) =
    some [0x000000000000030200020102] := by decide +kernel
theorem test_send_busy : eventsOf (.send 0 0x104 1 4) (atZero { live 0 with txq := [1, 2, 3] }) = some [.resp 4 .busy] ∧
    eventsOf (.send 0 0x800 9 0) (atZero (ready 0)) = some [.resp 4 .notStarted] := by decide +kernel
theorem test_txXmit : eventsOf (.txXmit 0) (atZero { live 0 with
      txq := [0x000000000000030200020102, 0x000000000000000000000103] }) = some [.busTx 0x102 2 [2, 3]] := by decide +kernel
theorem test_txXmit_loopback : (after (.txXmit 0) (looped { liveT 0 with txq := [0x0000000000CCBBAA00030123] })).map
    (fun x => (x.txq, x.rxq0)) = some ([], [0x0000000000CCBBAA00030123]) := by decide +kernel
theorem test_busRx_hp : (after (.busRx 0 0x2AB 1 0x55 0) (atZero (liveT 0x07))).map
    (fun x => (x.rxq1, x.hpStatus, x.irqPending, x.irqLines)) =
      some ([0x0000000000000055000102AB], ⟨true, 1, .q1, true⟩, 0x04, 0x06) := by decide +kernel
theorem test_busRx_full : (after (.busRx 0 0x2FF 1 0x99 0) (atZero { liveT 0x07 with rxq1 := [1, 2, 3] })).map
    (fun x => (x.rxq1, x.rxLost0, x.rxLost1, x.hpStatus)) = some ([1, 2, 3], false, true, ⟨true, 1, .q1, false⟩) := by
  decide +kernel

/-! ### Interrupts (section 8) -/

theorem test_irqDispatch : eventsOf (.irqDispatch 0 0x07) (atZero pendingT) =
    some [.rxCb .q0 1 ⟨0x150, 2, [0x11, 0x22]⟩, .rxCb .q1 0xB000 ⟨0x2AB, 1, [0x55]⟩,
      .hpCb 0xA000 ⟨true, 1, .q1, false⟩] := by decide +kernel
theorem test_irqDispatch_error : eventsOf (.irqDispatch 0 0x11) (atZero { live 0x3F with
      rxq0 := [0x10], irqPending := 0x10, cbErr := some 0xE000 }) = some [.errCb 0xE000 0x11] ∧
    eventsOf (.irqDispatch 0 0x10) (atZero { live 0x3F with rxq0 := [0x10], irqPending := 0x10, cbErr := some 0xE000 }) =
      some [] := by decide +kernel
theorem test_busStatus : (after (.busStatus 0 0x20) (atZero { live 0x3B with irqPending := 0x18 })).map
    (fun x => (x.irqPending, x.irqLines)) = some (0x38, 0x38) := by decide +kernel

/-! ### Polled receive and TICK (section 9) -/

theorem test_pollRx : eventsOf (.pollRx 0 0 7) (atZero { live 0x06 with
      rxq0 := [0x0000000000000000000000AB00010010], cbRx0 := some 0xB000 }) =
    some [.rxCb .q0 0xB000 ⟨0x010, 1, [0xAB]⟩, .resp 9 .ok] := by decide +kernel
theorem test_pollRx_refused : refusedWith .pollOnInterruptQueue (exec (.pollRx 0 1 5) (atZero (live 0x06))) = true ∧
    (after (.pollRx 0 0 2) (atZero (live 0x06))).map (·.poll) = some (some ⟨.q0, 2⟩) := by decide +kernel
theorem test_tick_timeout : eventsOf .tick (atZero { live 0x06 with poll := some ⟨.q0, 1⟩ }) = some [.pollDone .timeout] ∧
    (after .tick (atZero { live 0x06 with poll := some ⟨.q0, 4⟩ })).map (·.poll) = some (some ⟨.q0, 3⟩) := by decide +kernel
theorem test_tick_frame_wins : eventsOf .tick (atZero { live 0x06 with
      poll := some ⟨.q0, 1⟩, rxq0 := [0x11], cbRx0 := some 0xB000 }) =
    some [.rxCb .q0 0xB000 ⟨0x011, 0, []⟩, .pollDone .ok] := by decide +kernel
theorem test_pollDone : (execPollDone 0 (atZero { live 0x06 with
      poll := some ⟨.q0, 2⟩, rxq0 := [0x12], cbRx0 := some 0xB000 })).trace =
    [⟨0, .rxCb .q0 0xB000 ⟨0x012, 0, []⟩⟩, ⟨0, .pollDone .ok⟩] := by decide +kernel

/-! ### The channel (section 10) -/

/-- `Fk` of section 10. -/
def frameK (k : Nat) : Frame := ⟨BitVec.ofNat 11 (0x100 + k), 1, [BitVec.ofNat 8 k]⟩

/-- The channel after the thirteen enqueues of section 10: identifiers and counter. -/
def thirteen (p : Params) : List CanId × BitVec 32 :=
  let x := ((List.range 13).map fun k => frameK (k + 1)).foldl (fun y f => y.chanEnqueue p f) fresh
  (x.chan.map elemId, x.chanDrops)

theorem test_channel_drop_newest : thirteen { Params.defaults with countDrops := true } =
    ([0x101, 0x102, 0x103, 0x104, 0x105, 0x106, 0x107, 0x108, 0x109, 0x10A], 3) := by decide +kernel
theorem test_channel_drop_oldest : thirteen { Params.defaults with chanPolicy := .dropOldest } =
    ([0x104, 0x105, 0x106, 0x107, 0x108, 0x109, 0x10A, 0x10B, 0x10C, 0x10D], 0) := by decide +kernel
theorem test_chanDeq : eventsOf (.chanDeq 0) (atZero { fresh with chan := [0x000000000000000100010101] }) =
    some [.deq ⟨0x101, 1, [1]⟩, .resp 0xF .ok] := by decide +kernel
theorem test_chanDeq_held : eventsOf (.chanDeq 0) (atZero fresh) = some [] ∧
    refusedWith .secondConsumer (exec (.chanDeq 0) (atZero { fresh with rxWait := true })) = true := by decide +kernel

/-! ### The step -/

theorem test_step_word : step (State.reset.withFetchWord 128 0x00000000000000000000000000000000) =
    .next (State.reset.emit 0 [.resp 0 .invalidArgument]) := by rfl
theorem test_step_notAStep :
    refusedWith .notAStep (step (State.reset.withFetchWord 128 0xA0080000000000000000000000000000)) = true := by
  decide +kernel
theorem test_step_halted : faultedWith .halted (step { State.reset with fault := true }) = true := by decide +kernel
theorem test_violation_fault : setsFault (exec (.busRx 0 1 0 0 0) (atZero { fresh with cstate := .running })) = true ∧
    setsFault (exec (.busRx 0 1 0 0 0) (atZero { live 0 with nextSlot := 1 })) = true ∧
    setsFault (exec (.busRx 0 1 0 0 0) (atZero (live 0))) = false := by decide +kernel

/-! ### Final states and fairness (60_exceptions.md R130, 70_reset_and_hazards.md R150) -/

theorem test_final : (offered (atZero { live 0 with rxWait := true }) (.word 0xE0000000000000000000000000000000)).Final ∧
    ¬ (atZero { live 0 with rxWait := true, chan := [1] }).Final ∧
    ¬ (offered (atZero (live 0)) (.word 0xF0000000000000000000000000000000)).Final := by
  unfold State.Final
  decide +kernel

theorem test_fair_dequeue :
    (atZero fresh).holdsSlot (.word 0xF0000000000000000000000000000000) = true ∧
    (OwnStep.dequeue 0).enabledIn (atZero { live 0 with rxWait := true, chan := [1] }) = true ∧
    (OwnStep.dequeue 0).enabledIn (atZero { live 0 with rxWait := true }) = false ∧
    (OwnStep.dequeue 0).isTakenBy (.deqResume 0) = true := by decide +kernel

/-! ### Witnesses: for every statement with hypotheses, a state and operands that meet them, clause by clause -/

/-- A Running instance with something in every queue, every callback registered and HP_MSG latched. -/
def busy : Controller :=
  { pendingT with
    txq := [0x0000000000CCBBAA00030123, 0x000000000000000000000103], chan := [0x000000000000000100010101]
    cbErr := some 0xE000, irqEnable := 0x3F, irqPending := 0x34 }

/-- A Running instance whose transmit queue holds two equal elements: whichever of them the free value picks, one is left. -/
def twin : Controller := { liveT 0 with txq := [0x0000000000CCBBAA00030123, 0x0000000000CCBBAA00030123] }

/-- `TX_ORDER = any`, with loopback on instance 0. -/
def anyLooped : State :=
  { atZero twin with params := { Params.defaults with txOrder := .any, loopback := [true, false] } }

/-- Two busy instances. -/
def twoBusy : State := { State.reset with ctrls := [busy, busy] }

/-- A Running instance that polls queue 0 and whose RxTask waits. -/
def polling : Controller := { live 0x38 with poll := some ⟨.q0, 2⟩, rxWait := true, cbRx0 := some 1 }

/-- A held poll whose frame has arrived, and a held CHAN_DEQ whose frame has. -/
def arrived : Controller := { polling with rxq0 := [0x000000000000221100020150], chan := [0x000000000000000100010101] }

theorem all_of {α : Type} {l : List α} {P : α → Prop} [DecidablePred P] (h : (l.all fun e => decide (P e)) = true) :
    ∀ e ∈ l, P e := by
  simpa using h

theorem canonical_of {l : List Elem} (h : (l.all fun e => decide (encodeElem (elemId e) (elemDlc e)
    (payload (elemData e) (dlcToLen (elemDlc e))) = e)) = true) : ∀ e ∈ l, Elem.Canonical e := by
  simpa [Elem.Canonical] using h

theorem busy_ok : busy.Ok Params.defaults where
  filtersLength := by decide +kernel
  nextSlotLe := by decide +kernel
  filtersUsed := by decide +kernel
  rxqBound := by intro q; cases q <;> decide
  txqBound := by decide +kernel
  chanBound := by decide +kernel
  clearWhenUninitialized := fun h => absurd h (by decide)
  quietWhenNotRunning := fun h => absurd rfl h
  configuredHoldsValues := fun _ => ⟨_, _, rfl, rfl, by decide⟩
  txqCodes := all_of (by decide +kernel)
  chanLengths := all_of (by decide +kernel)

theorem fresh_ok : fresh.Ok Params.defaults where
  filtersLength := by decide +kernel
  nextSlotLe := by decide
  filtersUsed := by decide +kernel
  rxqBound := by intro q; cases q <;> decide
  txqBound := by decide
  chanBound := by decide
  clearWhenUninitialized := fun _ => by
    refine ⟨fun k => ?_, rfl, rfl, rfl, rfl, rfl, rfl, rfl, rfl, rfl, rfl⟩
    simp only [fresh, Controller.powerOn, List.getD_eq_getElem?_getD, List.getElem?_replicate]
    split <;> rfl
  quietWhenNotRunning := fun _ => ⟨rfl, rfl, rfl, rfl, rfl⟩
  configuredHoldsValues := fun h => absurd rfl h
  txqCodes := all_of rfl
  chanLengths := all_of rfl

/-- `s.Ok` of a busy block, whatever is scheduled. -/
theorem witness_ok (slot : Slot) (s : State) (hs : s = atZero busy ∨ s = looped busy) : (offered s slot).Ok := by
  have hc : ∀ x ∈ [busy, fresh], x.Ok Params.defaults := by
    intro x hx
    simp only [List.mem_cons, List.not_mem_nil, or_false] at hx
    rcases hx with rfl | rfl
    · exact busy_ok
    · exact fresh_ok
  rcases hs with rfl | rfl
  · exact ⟨rfl, hc, fun t ht => absurd ht (by simp [offered, atZero, State.reset, State.powerOn])⟩
  · refine ⟨rfl, fun x hx => ?_, fun t ht => absurd ht (by simp [offered, looped, atZero, State.reset, State.powerOn])⟩
    have h := hc x hx
    exact ⟨h.filtersLength, h.nextSlotLe, h.filtersUsed, h.rxqBound, h.txqBound, h.chanBound, h.clearWhenUninitialized,
      h.quietWhenNotRunning, h.configuredHoldsValues, h.txqCodes, h.chanLengths⟩

theorem witness_tidy (slot : Slot) : (offered (atZero busy) slot).Tidy := by
  intro x hx
  simp only [offered, atZero, List.mem_cons, List.not_mem_nil, or_false] at hx
  rcases hx with rfl | rfl
  · refine ⟨?_, canonical_of (by decide +kernel), canonical_of (by decide +kernel), by decide +kernel, by decide +kernel,
      fun _ => rfl, ?_, ?_, ?_, ?_⟩
    · intro q
      cases q <;> exact canonical_of (by decide +kernel)
    · intro q h hh
      cases q <;> (cases hh; decide)
    · intro h hh
      cases hh
      decide
    · intro h hh
      cases hh
      decide
    · intro h hh
      cases hh
  · refine ⟨?_, canonical_of rfl, canonical_of rfl, by decide +kernel, by decide +kernel,
      fun h => absurd (by decide +kernel) h, ?_, ?_, ?_, ?_⟩
    · intro q
      cases q <;> exact canonical_of rfl
    · intro q h hh
      cases q <;> cases hh
    · intro h hh
      cases hh
    · intro h hh
      cases hh
    · intro h hh
      cases hh

/-- StepKeepsInvariants, StepKeepsTidiness, InvariantsExcludeFaults, ParametersFixedTraceGrows: a step that answers next. -/
theorem witness_step_next : (∃ t, step (offered (atZero busy) (.word 0xB0000000000000000000000000000000)) = .next t) ∧
    (∃ t, step (offered (atZero busy) (.word 0xC0370000000000000000000000000000)) = .next t) ∧
    (∃ t, step (offered (atZero arrived) (.pollDone 0)) = .next t) ∧
    (∃ t, step (offered (atZero arrived) (.deqResume 0)) = .next t) :=
  ⟨next_of (by decide +kernel), next_of (by decide +kernel), next_of (by decide +kernel), next_of (by decide +kernel)⟩

/-- InvariantsExcludeFaults: each of the three named refusals. -/
theorem witness_InvariantsExcludeFaults_refused :
    refusedWith .notAStep (step (offered (atZero busy) (.word 0xA0080000000000000000000000000000))) = true ∧
    refusedWith .pollOnInterruptQueue (step (offered (atZero busy) (.word 0x90010000000500000000000000000000))) = true ∧
    refusedWith .secondConsumer (step (offered (atZero arrived) (.word 0xF0000000000000000000000000000000))) = true := by
  decide +kernel

theorem witness_ReachableStatesMeetInvariants : ∃ t, Reachable Params.defaults 2 t ∧
    step (offered State.reset (.word 0x32000000000000000000000000000000)) = .next t := by
  obtain ⟨t, ht⟩ := next_of (o := step (offered State.reset (.word 0x32000000000000000000000000000000))) (by decide +kernel)
  exact ⟨t, .step (.offer (.word 0x32000000000000000000000000000000) .powerOn) ht, ht⟩

theorem witness_DecodeOfEncode : WellFormed (.busRx 0xF 0x7FF 15 0xFFFFFFFFFFFFFFFF 1) ∧ WellFormed (.busStatus 0xF 0x08) ∧
    WellFormed (.init 0xF 0xFFFF 0xFFFF 0xFFFF 0xFFFF 0xFF 0x3F) := by decide

theorem witness_StepRunsScheduledStep : (offered State.reset (.word 0xF1000000000000000000000000000000)).fault = false ∧
    (offered State.reset (.word 0xF1000000000000000000000000000000)).schedule =
      [.word 0xF1000000000000000000000000000000] ∧
    decode 0xF1000000000000000000000000000000#128 = .ok (.chanDeq 1) ∧ State.reset.schedule = [] := by decide +kernel

/-- CommonTestsOfHostCommands: a host command's word that encodes no step, and the first unknown instance. -/
theorem witness_CommonTestsOfHostCommands : isHostOp (opField 0x30000000000000000000000000000001#128) = true ∧
    (∀ i, encode i ≠ 0x30000000000000000000000000000001#128) ∧ State.reset.ctrl? 2 = none ∧
    State.reset.ctrl? 1 ≠ none := by
  refine ⟨by decide +kernel, fun i h => ?_, by decide +kernel, by decide +kernel⟩
  have hs := Laws.Encoding.statement_of i
  unfold Laws.Encoding.Statement at hs
  rw [h] at hs
  have ho : i.opcode = 3 := hs.1.symm.trans (by decide +kernel)
  have hw : WellFormed i := by cases i <;> first | rfl | simp [Instr.opcode] at ho
  exact absurd (hs.2.2 hw) (by decide +kernel)

/-- IllFormedEventIsNoStep: an event's word that encodes no step, ill-formed events, unknown instances. -/
theorem witness_IllFormedEventIsNoStep : isHostOp (opField 0xE1000000000000000000000000000000#128) = false ∧
    (∀ i, WellFormed i → encode i ≠ 0xE1000000000000000000000000000000#128) ∧ ¬ WellFormed (.busRx 0 0x800 0 0 0) ∧
    State.reset.ctrl? 2 = none ∧ (Instr.txXmit 2).isHostCommand = false := by
  refine ⟨by decide +kernel, fun i hw h => ?_, by decide, by decide +kernel, rfl⟩
  have hs := Laws.Encoding.statement_of i
  unfold Laws.Encoding.Statement at hs
  rw [h] at hs
  exact absurd (hs.2.2 hw) (by decide +kernel)

theorem witness_DisabledStepDoesNothing : State.reset.fault = false ∧ State.reset.enables (.busRx 1 0x7FF 15 0 0) = false ∧
    WellFormed (.busRx 1 0x7FF 15 0 0) ∧ (State.reset.ctrl? 1).isSome = true ∧
    (atZero busy).enables (.irqDispatch 0 0x36) = false ∧ (atZero (live 0)).enables (.txXmit 0) = false ∧
    State.reset.enables (.busStatus 0 0x38) = false ∧ State.reset.enables (.chanDeq 0) = false ∧ fresh.rxWait = false ∧
    (atZero arrived).enables (.chanDeq 0) = false ∧ arrived.rxWait = true := by decide +kernel

theorem witness_reset_statements : (1 : InstId).toNat < 2 ∧ State.reset.enables .tick = true ∧
    State.reset.enables (.start 0) = true ∧ (Instr.pollRx 1 2 3).inst? = some 1 ∧
    (Instr.pollRx 1 2 3).isHostCommand = true ∧ (Instr.pollRx 1 2 3).opcode ≠ 0xF := by decide +kernel

/-- InstancesAreIsolated: two steps that name different instances, words and internal steps, one after the other. -/
theorem witness_InstancesAreIsolated :
    ([((.word 0xB0000000000000000000000000000000 : Slot), (.word 0xB1000000000000000000000000000000 : Slot), twoBusy),
      (.word 0xF0000000000000000000000000000000, .word 0xC1370000000000000000000000000000, twoBusy),
      (.pollDone 0, .deqResume 1, { State.reset with ctrls := [arrived, arrived] })].all
        fun (c : Slot × Slot × State) => decide (c.1.inst? = some 0) && decide (c.2.1.inst? = some 1) &&
          (match runSlot c.1 c.2.2 with
            | .next t => answersNext (runSlot c.2.1 t)
            | .fault _ => false
            | .refused _ => false)) = true := by decide +kernel

/-- InstancesAreIsolated, OneResponsePerCommand: every step answers a next state somewhere. -/
theorem witness_exec_next : ([.init 0 1 139 20 20 0 0, .addFilter 0 0 0 0 0, .start 0, .send 0 1 0 0, .stop 0, .regRxCb 0 0 0,
    .regErrCb 0 0, .regHpCb 0 0, .pollRx 0 0 0, .busRx 0 1 0 0 0, .txXmit 0, .irqDispatch 0 0x37, .busStatus 0 8,
    .chanDeq 0].all fun i => decide (i.inst? = some 0) && answersNext (exec i (atZero
      (if i.opcode = 9 then live 0 else busy)))) = true := by decide +kernel

/-- OneResponsePerCommand: the two held commands, which emit nothing. -/
theorem witness_OneResponsePerCommand_held :
    (after (.pollRx 0 0 1) (atZero (live 0))).map (fun x => decide (x.poll ≠ none)) = some true ∧
    (after (.chanDeq 0) (atZero (live 0))).map (·.rxWait) = some true := by decide +kernel

/-- LifecycleLaws: the three changes of `cstate`, a step that is no host command's, and instances that are not Running. -/
theorem witness_LifecycleLaws :
    answersNext (step (offered State.reset (.word 0x100001008B0014001402030000000000))) = true ∧
    decode 0x100001008B0014001402030000000000#128 = .ok (.init 0 1 139 20 20 2 0x03) ∧
    answersNext (step (offered (atZero (ready 0)) (.word 0x30000000000000000000000000000000))) = true ∧
    answersNext (step (offered (atZero busy) (.word 0x50000000000000000000000000000000))) = true ∧
    answersNext (step (offered (atZero arrived) (.pollDone 0))) = true ∧
    answersNext (step (offered State.reset (.word 0))) = true ∧
    (atZero fresh).ctrl? 0 = some fresh ∧ fresh.cstate ≠ .running ∧ (ready 0).cstate ≠ .running := by decide +kernel

/-- `MalformedAnswered` for each op: a word of that op with a bad bit, at both ends of each must-be-0 range. -/
theorem witness_MalformedAnswered :
    ([(0x1, 0, 40, 0x10000000000000000000000000000001#128), (0x1, 0, 40, 0x10000000000000000000008000000000#128),
      (0x1, 46, 2, 0x10000000000000000000400000000000#128), (0x1, 46, 2, 0x10000000000000000000800000000000#128),
      (0x2, 0, 72, 0x20000000000000800000000000000000#128), (0x3, 0, 120, 0x30800000000000000000000000000000#128),
      (0x4, 0, 32, 0x40000000000000000000000080000000#128), (0x5, 0, 120, 0x50000000000000000000000000000001#128),
      (0x6, 0, 80, 0x60000000000080000000000000000000#128), (0x7, 0, 80, 0x70000000000000000000000000000001#128),
      (0x7, 112, 8, 0x70010000000000000000000000000000#128), (0x8, 112, 8, 0x80800000000000000000000000000000#128),
      (0x8, 0, 80, 0x80000000000080000000000000000000#128), (0x9, 0, 80, 0x90000000000000000000000000000001#128),
      (0xF, 0, 120, 0xF0000000000000000000000000000001#128)].all
        fun (c : OpCode × Nat × Nat × StepWord) => decide (opField c.2.2.2 = c.1) &&
          decide (c.2.2.2.extractLsb' c.2.1 c.2.2.1 ≠ 0)) = true := by decide +kernel

/-- `UnknownAnswered`: the first and the last unknown identity. -/
theorem witness_UnknownAnswered : State.reset.ctrl? 2 = none ∧ State.reset.ctrl? 0xF = none := by decide +kernel

/-- The known instances and lifecycle states of the command statements (INIT, ADD_FILTER, START, SEND, STOP, POLL_RX,
registrations, CHAN_DEQ). -/
theorem witness_known : (atZero fresh).ctrl? 0 = some fresh ∧ fresh.cstate = .uninitialized ∧
    (atZero (ready 0)).ctrl? 0 = some (ready 0) ∧ (ready 0).cstate = .configured ∧
    (atZero (live 0)).ctrl? 0 = some (live 0) ∧ (live 0).cstate = .running ∧ (live 0).poll = none ∧
    polling.cstate = .running ∧ polling.poll ≠ none := by decide +kernel

/-- InitConfiguresInstance: legal and illegal tuples at the bounds, the last legal and first illegal default action. -/
theorem witness_InitConfiguresInstance : btLegal (atZero fresh).params ⟨512, 256, 128, 128⟩ = true ∧
    btLegal (atZero fresh).params ⟨513, 256, 128, 128⟩ = false ∧ 2 < (3 : BitVec 8).toNat ∧
    (atZero fresh).params.btWrite = .beforeAction ∧ { Params.defaults with btWrite := .onSuccess }.btWrite = .onSuccess ∧
    (2 : BitVec 8).toNat = DefaultAction.rejectAll.code ∧ (0 : BitVec 8).toNat = DefaultAction.acceptQ0.code := by
  decide +kernel

/-- RegisterReceiveCallback, PollReceive: queue operands at the bounds. -/
theorem witness_queue_operands : 1 < (2 : BitVec 8).toNat ∧ (0 : BitVec 8).toNat = QueueId.q0.code ∧
    (1 : BitVec 8).toNat = QueueId.q1.code := by decide

/-- AddFilterTakesNextSlot: operands at the bounds; a full and a not yet full table. -/
theorem witness_AddFilterTakesNextSlot : 2 < (3 : BitVec 8).toNat ∧ 4 < (5 : BitVec 8).toNat ∧
    0x7FF < (0x800 : BitVec 16).toNat ∧ (0x7FF : BitVec 16).toNat ≤ 0x7FF ∧
    (2 : BitVec 8).toNat = FilterKind.mask.code ∧ (4 : BitVec 8).toNat = FilterAction.toQ1Hp.code ∧
    { ready 0 with nextSlot := 28 }.nextSlot = (atZero fresh).params.filterCapacity ∧
    { ready 0 with nextSlot := 27 }.nextSlot ≠ (atZero fresh).params.filterCapacity := by decide +kernel

theorem witness_SlotExhaustion : (ready 0).nextSlot = 0 ∧
    (ready 0).filters.length = (atZero (ready 0)).params.filterCapacity ∧
    (List.replicate 29 (⟨.range, .reject, 0, 0x7FF⟩ : FilterRule)).length = (atZero (ready 0)).params.filterCapacity + 1 := by
  decide +kernel

/-- SendQueuesFrame: operands at the bounds; a full and an empty transmit queue. -/
theorem witness_SendQueuesFrame : 8 < (9 : BitVec 8).toNat ∧ (8 : BitVec 8).toNat ≤ 8 ∧
    { live 0 with txq := [1, 2, 3] }.txq.length = (atZero fresh).params.txqDepth ∧
    (live 0).txq.length ≠ (atZero fresh).params.txqDepth := by decide +kernel

/-- TransmitSendsOneElement: both orders, with and without loopback, and what the filter makes of a looped-back frame. -/
theorem witness_TransmitSendsOneElement : busy.cstate = .running ∧ busy.txq ≠ [] ∧ fresh.cstate ≠ .running ∧
    (atZero busy).params.txOrder = .fifo ∧ isLoopback (atZero busy).params 0 = false ∧
    isLoopback (looped busy).params 0 = true ∧ { Params.defaults with txOrder := .any }.txOrder = .any ∧
    { busy with txq := [0x000000000000000000000103] }.acceptFrame (looped busy).params 0x123 3 [0xAA, 0xBB, 0xCC] =
      .done { busy with
        txq := [0x000000000000000000000103], rxq0 := busy.rxq0 ++ [0x0000000000CCBBAA00030123] } [] := by decide +kernel

/-- The same with `TX_ORDER = any`, wherever the free value points: one of two equal elements is left, and the other is stored. -/
theorem witness_TransmitSendsOneElement_any : twin.cstate = .running ∧ twin.txq ≠ [] ∧ anyLooped.params.txOrder = .any ∧
    isLoopback anyLooped.params 0 = true ∧ ∀ k, k < 2 →
    { twin with txq := twin.txq.eraseIdx k, draws := twin.draws + 1 }.acceptFrame anyLooped.params 0x123 3
        [0xAA, 0xBB, 0xCC] =
      .done { twin with
        txq := [0x0000000000CCBBAA00030123], rxq0 := [0x0000000000CCBBAA00030123], draws := 1 } [] := by
  refine ⟨rfl, by decide, rfl, rfl, fun k hk => ?_⟩
  have h : k = 0 ∨ k = 1 := by omega
  rcases h with rfl | rfl <;> decide +kernel

/-- BusReceive: the bounds of the format, each reason to change nothing, and a frame the filter stores. -/
theorem witness_BusReceive : (0x7FF : BitVec 16).toNat ≤ 0x7FF ∧ (15 : BitVec 8).toNat ≤ 15 ∧ fresh.cstate ≠ .running ∧
    isLoopback (looped busy).params 0 = true ∧ (liveT 0).cstate = .running ∧ isLoopback (atZero (liveT 0)).params 0 = false ∧
    (liveT 0).acceptFrame (atZero (liveT 0)).params 0x100 2 [0x11, 0x22] =
      .done { liveT 0 with rxq0 := [0x000000000000221100020100] } [] := by decide +kernel

/-- AcceptFrameStores, ClassifyFirstMatch: every verdict on table T, room and no room. -/
theorem witness_AcceptFrameStores : (liveT 0).classify 0x300 = .decided .discard (some 2) ∧
    (liveT 0).classify 0x1FF = .decided (.store .q0 false) (some 0) ∧
    (liveT 0).classify 0x200 = .decided (.store .q1 true) (some 1) ∧ ((liveT 0).rxq .q0).length < Params.defaults.rxqDepth ∧
    Params.defaults.rxqDepth ≤ ({ liveT 0 with rxq1 := [1, 2, 3] }.rxq .q1).length := by decide +kernel

/-- ClassifyFirstMatch: the first slot, a later slot behind two that do not match, and no match at all. -/
theorem witness_ClassifyFirstMatch : 2 < (liveT 0).nextSlot ∧
    (liveT 0).filters[2]? = some (some ⟨.dualId, .reject, 0x150, 0x300⟩) ∧
    FilterRule.matchesId ⟨.dualId, .reject, 0x150, 0x300⟩ 0x300 = true ∧
    (tableT.take 2).all (fun r => r.any fun r => !r.matchesId 0x300) = true ∧
    FilterRule.matchesId ⟨.range, .toQ0, 0x100, 0x1FF⟩ 0x1FF = true ∧
    (tableT.take 6).all (fun r => r.any fun r => !r.matchesId 0x000) = true := by decide +kernel

theorem witness_AppendingKeepsEarlierMatches : (liveT 0).nextSlot < (liveT 0).filters.length ∧
    (liveT 0).classify 0x1FF = .decided (.store .q0 false) (some 0) := by decide +kernel

/-- FilterRouting, P2's table: both bounds of the range, the mask outside it, neither. -/
theorem witness_FilterRouting : ∃ x : Controller, x.cstate = .running ∧ x.nextSlot = 2 ∧
    x.filters = some ⟨.range, .toQ0, 0x100, 0x1FF⟩ :: some ⟨.mask, .toQ1, 0x200, 0x700⟩ :: List.replicate 26 none ∧
    x.defaultAction = some .rejectAll ∧ x.rxq0.length < (atZero x).params.rxqDepth ∧
    x.rxq1.length < (atZero x).params.rxqDepth ∧ (atZero x).ctrl? 0 = some x ∧ isLoopback (atZero x).params 0 = false ∧
    ((0x100 : CanId).toNat ≤ (0x100 : BitVec 16).toNat ∧ (0x1FF : BitVec 16).toNat ≤ (0x1FF : CanId).toNat) ∧
    ¬ (0x200 : BitVec 16).toNat ≤ (0x1FF : CanId).toNat ∧
    ((0x200 : BitVec 16).setWidth 11 : CanId) &&& 0x700 = 0x200 &&& 0x700 ∧
    ((0x300 : BitVec 16).setWidth 11 : CanId) &&& 0x700 ≠ 0x200 &&& 0x700 :=
  ⟨{ live 0 with
      nextSlot := 2
      filters := some ⟨.range, .toQ0, 0x100, 0x1FF⟩ :: some ⟨.mask, .toQ1, 0x200, 0x700⟩ :: List.replicate 26 none },
    by decide +kernel⟩

theorem witness_ReceivedFrameCompletes : (atZero busy).ctrl? 0 = some busy ∧ (looped busy).ctrl? 0 = some busy ∧
    isLoopback (atZero busy).params 0 = false ∧ isLoopback (looped busy).params 0 = true ∧ busy.txq ≠ [] := by
  decide +kernel

/-- ViolationHaltsTheBlock: an empty slot below `next_slot` behind one that does not match, no default action, and a looped-back
element that meets the latter. -/
theorem witness_ViolationHaltsTheBlock :
    { liveT 0 with filters := tableT.set 1 none }.Violates 0x200 ∧ { live 0 with defaultAction := none }.Violates 0x7FF ∧
    (∀ l : Controller, l = { live 0 with defaultAction := none, txq := [0x0000000000CCBBAA00030123] } →
      isLoopback (looped l).params 0 = true ∧
      l.txq[txPosition (looped l).params 0 l.draws l.txq.length]? = some 0x0000000000CCBBAA00030123 ∧
      l.Violates (elemId 0x0000000000CCBBAA00030123)) ∧
    isLoopback (atZero fresh).params 0 = false := by
  refine ⟨.inl ⟨1, by decide, by decide, fun j hj => ?_⟩, .inr ⟨fun j hj => absurd hj (Nat.not_lt_zero j), rfl⟩, ?_, rfl⟩
  · obtain rfl : j = 0 := by omega
    exact ⟨⟨.range, .toQ0, 0x100, 0x1FF⟩, by decide, by decide⟩
  · rintro l rfl
    exact ⟨rfl, rfl, .inr ⟨fun j hj => absurd hj (Nat.not_lt_zero j), rfl⟩⟩

theorem witness_ExtractOneFrame : (liveT 0).cbRx .q0 = none ∧ busy.cbRx .q0 = some 1 ∧ busy.cbRx .q1 = some 0xB000 ∧
    busy.rxq .q0 = 0x000000000000221100020150 :: [0x000000000000000000000141] ∧
    busy.rxq .q1 = [0x0000000000000055000102AB] := by decide +kernel

/-- PollReceive: each clause of a Running instance. -/
theorem witness_PollReceive : polling.poll ≠ none ∧ (live 0x06).irqEnable.getLsbD QueueId.q1.code = true ∧
    (live 0x06).irqEnable.getLsbD QueueId.q0.code = false ∧ (live 0x06).poll = none ∧ (live 0x06).rxq .q0 = [] ∧
    { live 0x06 with rxq0 := [0x11] }.rxq .q0 ≠ [] ∧ (0xFFFFFFFF : BitVec 32) ≠ 0 := by decide +kernel

theorem witness_PollCompletion : (offered (atZero arrived) (.pollDone 0)).schedule = [.pollDone 0] ∧
    arrived.poll = some ⟨.q0, 2⟩ ∧ arrived.rxq .q0 ≠ [] ∧ polling.poll = some ⟨.q0, 2⟩ ∧ polling.rxq .q0 = [] := by
  decide +kernel

/-- TickAdvancesPolls, PollExpiresAtNthTick: a poll with more than one tick left, and with the last. -/
theorem witness_TickAdvancesPolls : (atZero polling).ctrls.length ≤ 16 ∧ (atZero polling).ctrl? 0 = some polling ∧
    polling.poll = some ⟨.q0, 1 + 1⟩ ∧ 1 < (⟨.q0, 2⟩ : Poll).remaining ∧ (⟨.q0, 1⟩ : Poll).remaining ≤ 1 ∧
    polling.rxq .q0 = [] ∧ arrived.rxq .q0 ≠ [] := by decide +kernel

theorem witness_LoopbackRoundTrip : (8 : BitVec 8).toNat ≤ 8 ∧ (live 0).txq.length ≠ (looped (live 0)).params.txqDepth ∧
    { liveT 0 with txq := [0x0000000000CCBBAA00030123] }.txq[txPosition (looped busy).params 0 0 1]? =
      some 0x0000000000CCBBAA00030123 ∧
    (liveT 0).classify ((0x123 : BitVec 16).setWidth 11) = .decided (.store .q0 false) (some 0) ∧
    ((liveT 0).rxq .q0).length < (looped (liveT 0)).params.rxqDepth ∧ busy.cbRx .q0 = some 1 := by decide +kernel

/-- PollMatchesDispatch: instance 0 polls queue 0, instance 1 has its interrupt. -/
theorem witness_PollMatchesDispatch : ∃ (x y : Controller) (s : State), s.ctrl? 0 = some x ∧ s.ctrl? 1 = some y ∧
    s.params.dispatchOrder = [.rxq0, .rxq1, .err, .hp] ∧ x.cstate = .running ∧ y.cstate = .running ∧ x.poll = none ∧
    x.irqEnable.getLsbD QueueId.q0.code = false ∧ y.irqLines = QueueId.q0.reason ∧ x.rxq .q0 ≠ [] ∧
    x.rxq .q0 = y.rxq .q0 ∧ x.cbRx .q0 = y.cbRx .q0 ∧ x.chan = y.chan ∧ x.chanDrops = y.chanDrops :=
  ⟨{ live 0 with rxq0 := [0x11], cbRx0 := some 1 }, { live 0x05 with rxq0 := [0x11], cbRx0 := some 1 },
    { State.reset with
      ctrls := [{ live 0 with rxq0 := [0x11], cbRx0 := some 1 }, { live 0x05 with rxq0 := [0x11], cbRx0 := some 1 }] },
    by decide +kernel⟩

/-- ChanEnqueuePolicy, ChannelBound: a channel with room, a full one, an empty one; a full one with an oldest entry. -/
theorem witness_channel : busy.chan.length < Params.defaults.chanCapacity ∧
    Params.defaults.chanCapacity ≤ { fresh with chan := List.replicate 10 0 }.chan.length ∧ fresh.chan = [] ∧
    0 < Params.defaults.chanCapacity ∧ ((List.range 13).map frameK).length = Params.defaults.chanCapacity + 3 ∧
    { Params.defaults with countDrops := true }.countDrops = true ∧
    { Params.defaults with chanPolicy := .dropOldest }.chanPolicy = .dropOldest ∧
    fresh.chanDrops.toNat + 3 ≤ 0xFFFFFFFF := by decide +kernel

theorem witness_ChannelDeliversOnceInOrder :
    (∀ f ∈ ChanOp.enqueued [.enq (frameK 1), .enq (frameK 2), .deq, .deq, .enq (frameK 3)], f.Valid) ∧
    (chanRun Params.defaults [.enq (frameK 1), .enq (frameK 2), .deq, .deq, .enq (frameK 3)] fresh).map (·.2) =
      some [frameK 1, frameK 2] := by
  refine ⟨?_, by decide +kernel⟩
  intro f hf
  simp only [ChanOp.enqueued, List.mem_cons, List.not_mem_nil, or_false] at hf
  rcases hf with rfl | rfl | rfl <;> exact ⟨by decide, by decide⟩

theorem witness_ChanDeqDelivers : busy.chan = 0x000000000000000100010101 :: [] ∧ fresh.chan = [] ∧ arrived.rxWait = true ∧
    arrived.chan = 0x000000000000000100010101 :: [] ∧ fresh.rxWait = false ∧ busy.rxWait = false := by decide +kernel

theorem witness_PendingAndIrqLines : (ready 0x3F).cstate ≠ .running ∧ fresh.Ok Params.defaults ∧ (2 : Nat) ≤ 5 ∧
    (5 : Nat) < 6 := ⟨by decide +kernel, fresh_ok, by decide, by decide⟩

theorem witness_BusStatusLatches : (0x08 : Reasons) &&& 0x07 = 0 ∧ (0x38 : Reasons) &&& 0x07 = 0 ∧ (0x08 : Reasons) ≠ 0 ∧
    busy.cstate = .running ∧ (ready 0).cstate ≠ .running := by decide +kernel

/-- DispatchServesReasons, DispatchInEveryOrder: a call with every reason class, and the three ways of not being enabled. -/
theorem witness_dispatch : (atZero busy).ctrl? 0 = some busy ∧ busy.cstate = .running ∧ busy.irqLines = 0x37 ∧
    busy.irqLines ≠ 0 ∧ (0x37 : Reasons) &&& 0x38 ≠ 0 ∧ (0x37 : Reasons) &&& 0x04 ≠ 0 ∧ busy.cbErr = some 0xE000 ∧
    busy.cbHp = some 0xA000 ∧ (atZero busy).params.dispatchOrder = [.rxq0, .rxq1, .err, .hp] ∧ (live 0).irqLines = 0 ∧
    (0x36 : Reasons) ≠ busy.irqLines := by decide +kernel

/-- DispatchInEveryOrder: an order with queue 1 first, and the default; with and without a registered H_CHAN. -/
theorem witness_DispatchInEveryOrder : [ReasonClass.hp, .err, .rxq1, .rxq0].Perm [.rxq0, .rxq1, .err, .hp] ∧
    ¬ [ReasonClass.hp, .err, .rxq1, .rxq0].idxOf .rxq0 < [ReasonClass.hp, .err, .rxq1, .rxq0].idxOf .rxq1 ∧
    Params.defaults.dispatchOrder.idxOf .rxq0 < Params.defaults.dispatchOrder.idxOf .rxq1 ∧
    busy.cbRx0 = some 1 ∧ { busy with cbRx0 := none }.cbRx0 ≠ some 1 ∧ busy.cbRx1 ≠ some 1 := by decide

/-- The codec statements: payloads of the length their code names, at both ends; a valid frame; a body with RTR set. -/
theorem witness_codec : ([] : List Byte).length = dlcToLen 0 ∧ (List.replicate 8 (0 : Byte)).length = dlcToLen 15 ∧
    ((8 : Dlc).toNat ≤ 8 ∧ 8 < (9 : Dlc).toNat) ∧ (⟨0x7FF, 8, List.replicate 8 0⟩ : Frame).Valid ∧
    (List.replicate 18 true).getD 11 false = true ∧ (⟨true, 27, .q1, true⟩ : HpStatus).slot < 28 :=
  ⟨by decide, by decide, by decide, ⟨by decide, by decide⟩, by decide, by decide⟩

theorem witness_bit_timing : 0 < 80000000 ∧ 0 < (⟨1, 139, 20, 20⟩ : BitTiming).prescaler ∧ 1 ≤ Params.defaults.sjwMax ∧
    quantizeRef Params.defaults 3000000 1000000 = some ⟨1, 1, 1, 1⟩ := by decide +kernel

/-- FilterMatchPredicates: a rule of each kind. -/
theorem witness_FilterMatchPredicates : (⟨.range, .toQ0, 0, 0⟩ : FilterRule).kind = .range ∧
    (⟨.dualId, .toQ0, 0, 0⟩ : FilterRule).kind = .dualId ∧ (⟨.mask, .toQ0, 0, 0⟩ : FilterRule).kind = .mask := by decide

end Sys2Proof.Machine.Tests
end

/-! PROOFS of the family 10_state.md: the invariants of R34, what no step changes, the fatal-assertion path, the pending reasons and
the power-on values. -/

namespace Sys2Proof.Machine

/-! ### The frames that events carry (10_state.md R34 (I-a)) -/

theorem frameOfElem_valid (e : Elem) : (frameOfElem e).Valid :=
  ⟨dlcToLen_le _, payload_length _ _⟩

theorem decodeChan_valid (c : Elem) : (decodeChan c).Valid :=
  ⟨Nat.min_le_right _ _, payload_length _ _⟩

/-- A channel entry made of a valid frame has a length of at most 8 ((I-g)). -/
theorem elemDlc_encodeChan_le {f : Frame} (h : f.Valid) : (elemDlc (encodeChan f)).toNat ≤ 8 := by
  obtain ⟨hlen, -⟩ := h
  simp only [encodeChan, elemDlc_encodeElem, BitVec.toNat_ofNat]
  omega

theorem lenToDlc_le {n : Nat} (h : n ≤ 8) : (lenToDlc n).toNat ≤ 8 := by
  simp only [lenToDlc, BitVec.toNat_ofNat]
  omega

/-- The callbacks of an extraction carry valid frames. -/
theorem Controller.rxEvents_framesValid (x : Controller) (q : QueueId) : ∀ e ∈ x.rxEvents q, e.FramesValid := by
  unfold Controller.rxEvents
  split <;> simp [Event.FramesValid, frameOfElem_valid]

/-! ### Updates that keep the invariants of an instance ((I-b) to (I-g))

Outside Running the queues, the latched reasons and the held poll are empty, so an update of one of them keeps the invariants
when it leaves it empty there. -/

section
variable {p : Params} {x : Controller}

theorem CState.ne_running_of_uninitialized {c : CState} (h : c = .uninitialized) : c ≠ .running := by
  simp [h]

theorem Controller.Ok.rxq_eq_nil (h : x.Ok p) (hn : x.cstate ≠ .running) (q : QueueId) : x.rxq q = [] := by
  obtain ⟨h0, h1, -⟩ := h.quietWhenNotRunning hn
  cases q
  · exact h0
  · exact h1

theorem Controller.Ok.setRxq (h : x.Ok p) {q : QueueId} {l : List Elem} (hlen : l.length ≤ p.rxqDepth)
    (hquiet : x.cstate ≠ .running → l = []) : (x.setRxq l q).Ok p := by
  have hbound : ∀ r, ((x.setRxq l q).rxq r).length ≤ p.rxqDepth := by
    intro r
    by_cases hr : r = q
    · simpa [hr] using hlen
    · simpa [Controller.rxq_setRxq_ne x l hr] using h.rxqBound r
  have hempty : x.cstate ≠ .running → (x.setRxq l q).rxq0 = [] ∧ (x.setRxq l q).rxq1 = [] := by
    intro hn
    cases q
    · exact ⟨hquiet hn, h.rxq_eq_nil hn .q1⟩
    · exact ⟨h.rxq_eq_nil hn .q0, hquiet hn⟩
  cases q <;> exact { h with
    rxqBound := hbound
    clearWhenUninitialized := fun hc => by
      obtain ⟨h0, h1⟩ := hempty (CState.ne_running_of_uninitialized hc)
      obtain ⟨hf, hk, -, -, hrest⟩ := h.clearWhenUninitialized hc
      exact ⟨hf, hk, h0, h1, hrest⟩
    quietWhenNotRunning := fun hn => by
      obtain ⟨h0, h1⟩ := hempty hn
      obtain ⟨-, -, hrest⟩ := h.quietWhenNotRunning hn
      exact ⟨h0, h1, hrest⟩ }

theorem Controller.Ok.setTxq (h : x.Ok p) {l : List Elem} (hlen : l.length ≤ p.txqDepth)
    (hcodes : ∀ e ∈ l, (elemDlc e).toNat ≤ 8) (hquiet : x.cstate ≠ .running → l = []) :
    { x with txq := l }.Ok p :=
  { h with
    txqBound := hlen
    txqCodes := hcodes
    clearWhenUninitialized := fun hc => by
      obtain ⟨hf, hk, h0, h1, -, hrest⟩ := h.clearWhenUninitialized hc
      exact ⟨hf, hk, h0, h1, hquiet (CState.ne_running_of_uninitialized hc), hrest⟩
    quietWhenNotRunning := fun hn => by
      obtain ⟨h0, h1, -, hrest⟩ := h.quietWhenNotRunning hn
      exact ⟨h0, h1, hquiet hn, hrest⟩ }

theorem Controller.Ok.setChan (h : x.Ok p) {l : List Elem} (hlen : l.length ≤ p.chanCapacity)
    (hcodes : ∀ c ∈ l, (elemDlc c).toNat ≤ 8) : { x with chan := l }.Ok p :=
  { h with chanBound := hlen, chanLengths := hcodes }

theorem Controller.Ok.setIrqPending (h : x.Ok p) {m : Reasons} (hquiet : x.cstate ≠ .running → m = 0) :
    { x with irqPending := m }.Ok p :=
  { h with
    clearWhenUninitialized := fun hc => by
      obtain ⟨hf, hk, h0, h1, ht, hi, -, hrest⟩ := h.clearWhenUninitialized hc
      exact ⟨hf, hk, h0, h1, ht, hi, hquiet (CState.ne_running_of_uninitialized hc), hrest⟩
    quietWhenNotRunning := fun hn => by
      obtain ⟨h0, h1, ht, -, hp⟩ := h.quietWhenNotRunning hn
      exact ⟨h0, h1, ht, hquiet hn, hp⟩ }

theorem Controller.Ok.setPoll (h : x.Ok p) {o : Option Poll} (hquiet : x.cstate ≠ .running → o = none) :
    { x with poll := o }.Ok p :=
  { h with
    clearWhenUninitialized := fun hc => by
      obtain ⟨hf, hk, h0, h1, ht, hi, hm, hv, hl0, hl1, -⟩ := h.clearWhenUninitialized hc
      exact ⟨hf, hk, h0, h1, ht, hi, hm, hv, hl0, hl1, hquiet (CState.ne_running_of_uninitialized hc)⟩
    quietWhenNotRunning := fun hn => by
      obtain ⟨h0, h1, ht, hm, -⟩ := h.quietWhenNotRunning hn
      exact ⟨h0, h1, ht, hm, hquiet hn⟩ }

theorem Controller.Ok.setHpStatus (h : x.Ok p) (hr : x.cstate = .running) (d : HpStatus) :
    { x with hpStatus := d }.Ok p :=
  { h with clearWhenUninitialized := fun hc => by simp [hr] at hc }

theorem Controller.Ok.markLost (h : x.Ok p) (hr : x.cstate = .running) (q : QueueId) : (x.markLost q).Ok p := by
  cases q <;> exact { h with clearWhenUninitialized := fun hc => by simp [hr] at hc }

theorem Controller.Ok.latch (h : x.Ok p) (hr : x.cstate = .running) (m : Reasons) : (x.latch m).Ok p :=
  h.setIrqPending fun hn => absurd hr hn

theorem Controller.Ok.unlatch (h : x.Ok p) (m : Reasons) : (x.unlatch m).Ok p :=
  h.setIrqPending fun hn => by
    obtain ⟨-, -, -, hm, -⟩ := h.quietWhenNotRunning hn
    simp [hm]

theorem Controller.Ok.setCbRx (h : x.Ok p) (g : Option Handler) (q : QueueId) : (x.setCbRx g q).Ok p := by
  cases q <;> exact { h with }

theorem Controller.Ok.setCbErr (h : x.Ok p) (g : Option Handler) : { x with cbErr := g }.Ok p := { h with }

theorem Controller.Ok.setCbHp (h : x.Ok p) (g : Option Handler) : { x with cbHp := g }.Ok p := { h with }

theorem Controller.Ok.start (h : x.Ok p) (hc : x.cstate = .configured) : { x with cstate := .running }.Ok p :=
  { h with
    clearWhenUninitialized := nofun
    quietWhenNotRunning := fun hn => absurd rfl hn
    configuredHoldsValues := fun _ => h.configuredHoldsValues (by simp [hc]) }

/-- A rule put into the next slot keeps "an entry is Some exactly below `next_slot`" ((I-b)). -/
theorem Controller.Ok.addRule (h : x.Ok p) (hc : x.cstate = .configured) (hroom : x.nextSlot ≠ p.filterCapacity)
    (r : FilterRule) :
    { x with filters := x.filters.set x.nextSlot (some r), nextSlot := x.nextSlot + 1 }.Ok p := by
  have hlt : x.nextSlot < p.filterCapacity := Nat.lt_of_le_of_ne h.nextSlotLe hroom
  exact { h with
    filtersLength := by simpa using h.filtersLength
    nextSlotLe := hlt
    filtersUsed := fun k hk => by
      by_cases hkn : k = x.nextSlot
      · simp [hkn, h.filtersLength, hlt]
      · have hset : (x.filters.set x.nextSlot (some r)).getD k none = x.filters.getD k none := by
          simp [List.getElem?_set_ne (Ne.symm hkn)]
        have hiff : k < x.nextSlot ↔ k < x.nextSlot + 1 := by omega
        rw [hset, h.filtersUsed k hk]
        exact decide_eq_decide.mpr hiff
    clearWhenUninitialized := fun hu => by simp [hc] at hu }

/-- The instance reset keeps the invariants in whichever lifecycle state it is done. -/
theorem Controller.Ok.hwReset (h : x.Ok p) : (x.hwReset p).Ok p where
  filtersLength := by simp
  nextSlotLe := by simp
  filtersUsed := by simp
  rxqBound q := by cases q <;> simp [Controller.rxq]
  txqBound := by simp
  chanBound := h.chanBound
  clearWhenUninitialized := by simp
  quietWhenNotRunning := by simp
  configuredHoldsValues := h.configuredHoldsValues
  txqCodes := by simp
  chanLengths := h.chanLengths

/-- After an instance reset the lifecycle state may be Uninitialized, whatever `bt` and the callbacks are. -/
theorem Controller.Ok.hwReset_uninitialized (h : x.Ok p) (bt : Option BtRegs) (c0 c1 ce ch : Option Handler) :
    { x.hwReset p with
      cstate := .uninitialized, bt := bt, cbRx0 := c0, cbRx1 := c1, cbErr := ce, cbHp := ch }.Ok p :=
  { h.hwReset with
    clearWhenUninitialized := by simp
    quietWhenNotRunning := by simp
    configuredHoldsValues := fun hc => absurd rfl hc }

/-- After an instance reset the lifecycle state may be Configured, with a legal `bt` and a default action. -/
theorem Controller.Ok.hwReset_configured (h : x.Ok p) {bt : BtRegs} (hbt : btLegal p bt.timing = true)
    (a : DefaultAction) (m : Reasons) :
    { x.hwReset p with cstate := .configured, bt := some bt, defaultAction := some a, irqEnable := m }.Ok p :=
  { h.hwReset with
    clearWhenUninitialized := nofun
    quietWhenNotRunning := by simp
    configuredHoldsValues := fun _ => ⟨bt, a, rfl, rfl, hbt⟩ }

/-- An extraction keeps the invariants: its queue gets shorter, and what enters the channel is a valid frame within the bound. -/
theorem Controller.Ok.extractOne (h : x.Ok p) (q : QueueId) : (x.extractOne p q).1.Ok p := by
  obtain ⟨ch, n, he, hbound, hmem, -⟩ := Controller.extractOne_shape p x q
  rw [he]
  have htail : (x.setRxq (x.rxq q).tail q).Ok p := by
    refine h.setRxq ?_ fun hn => by simp [h.rxq_eq_nil hn q]
    have hbound := h.rxqBound q
    rw [List.length_tail]
    omega
  have hcodes : ∀ c ∈ ch, (elemDlc c).toNat ≤ 8 := by
    intro c hc
    rcases hmem c hc with hold | ⟨e, -, rfl⟩
    · exact h.chanLengths c hold
    · exact elemDlc_encodeChan_le (frameOfElem_valid e)
  exact { htail.setChan (hbound h.chanBound) hcodes with }

theorem Controller.extractOne_framesValid (p : Params) (x : Controller) (q : QueueId) :
    ∀ e ∈ (x.extractOne p q).2, e.FramesValid := by
  obtain ⟨ch, n, he, -⟩ := Controller.extractOne_shape p x q
  rw [he]
  exact x.rxEvents_framesValid q

/-- A store keeps the invariants of a Running instance. -/
theorem Controller.Ok.storeFrame (h : x.Ok p) (hr : x.cstate = .running) (id : CanId) (dlc : Dlc) (data : List Byte)
    (q : QueueId) : (x.storeFrame p id dlc data q).1.Ok p := by
  rcases Controller.storeFrame_cases p id dlc data q x with ⟨hroom, he⟩ | ⟨-, he⟩ <;> rw [he]
  · exact h.setRxq (by simpa using hroom) fun hn => absurd hr hn
  · exact h.markLost hr q

theorem Controller.storeFrame_cstate (p : Params) (id : CanId) (dlc : Dlc) (data : List Byte) (q : QueueId) (x : Controller) :
    (x.storeFrame p id dlc data q).1.cstate = x.cstate := by
  rcases Controller.storeFrame_cases p id dlc data q x with ⟨-, he⟩ | ⟨-, he⟩ <;> simp [he]

theorem Controller.Ok.stored (h : x.Ok p) (hr : x.cstate = .running) (id : CanId) (dlc : Dlc) (data : List Byte)
    (q : QueueId) (hp : Option Nat) : (x.stored p id dlc data q hp).Ok p := by
  have hs := h.storeFrame hr id dlc data q
  cases hp with
  | none => exact hs
  | some k =>
    have hr' : (x.storeFrame p id dlc data q).1.cstate = .running := by rw [Controller.storeFrame_cstate, hr]
    exact (hs.setHpStatus hr' ⟨true, k, q, (x.storeFrame p id dlc data q).2⟩).latch hr' hpMask

theorem Controller.Ok.takeTx (h : x.Ok p) (k : Nat) : (x.takeTx p k).Ok p := by
  have hlen : (x.txq.eraseIdx k).length ≤ p.txqDepth := (List.length_eraseIdx_le _ _).trans h.txqBound
  have hcodes : ∀ e ∈ x.txq.eraseIdx k, (elemDlc e).toNat ≤ 8 := fun e he =>
    h.txqCodes e (List.mem_of_mem_eraseIdx he)
  have hquiet : x.cstate ≠ .running → x.txq.eraseIdx k = [] := fun hn => by
    obtain ⟨-, -, ht, -⟩ := h.quietWhenNotRunning hn
    simp [ht]
  exact { h.setTxq hlen hcodes hquiet with }

/-! ### The acceptance filter (42_filter.md R99) -/

/-- The scan stops as corrupt only at an empty slot. -/
theorem none_mem_of_scanFrom_corrupt {id : CanId} {l : List (Option FilterRule)} :
    ∀ {k : Nat}, scanFrom id k l = .corrupt → none ∈ l := by
  induction l with
  | nil => intro k h; simp [scanFrom] at h
  | cons o rest ih =>
    intro k h
    cases o with
    | none => simp
    | some r =>
      simp only [scanFrom] at h
      split at h
      · cases h
      · exact List.mem_cons_of_mem _ (ih h)

/-- With the invariants `Classify` decides every frame of a Running instance. -/
theorem Controller.Ok.classify_ne_corrupt (h : x.Ok p) (hr : x.cstate = .running) (id : CanId) :
    x.classify id ≠ .corrupt := by
  obtain ⟨-, a, -, ha, -⟩ := h.configuredHoldsValues (by simp [hr])
  have hscan : scanFrom id 0 (x.filters.take x.nextSlot) ≠ .corrupt := by
    intro hc
    obtain ⟨k, hk, hnone⟩ := List.mem_take_iff_getElem.mp (none_mem_of_scanFrom_corrupt hc)
    obtain ⟨hslot, hlen⟩ := Nat.lt_min.mp hk
    have hused := h.filtersUsed k (h.filtersLength ▸ hlen)
    simp [hlen, hnone, hslot] at hused
  unfold Controller.classify
  split
  · simp
  · exact absurd ‹_› hscan
  · simp [ha]

end

/-! ### Sound local results

One statement about what a step does to the instance it names serves both the preservation of the invariants and the absence of
faults. -/

/-- The refusals the spec asks for: a word that is not a step (30_encoding.md R71), POLL_RX on a queue whose interrupt is enabled
(70_reset_and_hazards.md R151), and a second consumer (R156). -/
def Refusal.Specified (r : Refusal) : Prop := r = .notAStep ∨ r = .pollOnInterruptQueue ∨ r = .secondConsumer

/-- A local result that keeps the invariants of R34, emits valid frames, and stops only where the spec refuses. -/
def LocalResult.Sound (p : Params) : LocalResult → Prop
  | .done y evs => y.Ok p ∧ ∀ e ∈ evs, e.FramesValid
  | .fatal => False
  | .refused r => r.Specified

section
variable {p : Params} {x : Controller}

theorem Controller.Ok.done_sound (h : x.Ok p) : (LocalResult.done x []).Sound p := ⟨h, by simp⟩

theorem Controller.Ok.respond_sound (h : x.Ok p) (op : OpCode) (st : Status) :
    (LocalResult.done x [.resp op st]).Sound p := ⟨h, by simp [Event.FramesValid]⟩

theorem Controller.Ok.raise_sound (h : x.Ok p) (op : OpCode) (st : Status) : (x.raise op st).Sound p :=
  h.respond_sound op st

theorem Controller.Ok.initialise_sound (h : x.Ok p) (bt : BtRegs) (action : BitVec 8) (m : Reasons) :
    (x.initialise p bt action m).Sound p := by
  unfold Controller.initialise
  split
  · exact h.raise_sound _ _
  all_goals
    dsimp only
    split
    · split
      · exact (h.hwReset_uninitialized _ _ _ _ _).respond_sound _ _
      · exact (h.hwReset_configured ‹_› _ _).respond_sound _ _
    · exact (h.hwReset_uninitialized _ _ _ _ _).respond_sound _ _

theorem Controller.Ok.addFilter_sound (h : x.Ok p) (kind action : BitVec 8) (id1 id2 : BitVec 16) :
    (x.addFilter p kind action id1 id2).Sound p := by
  unfold Controller.addFilter
  split
  · exact h.raise_sound _ _
  · exact h.raise_sound _ _
  · split
    · exact h.raise_sound _ _
    · split
      · exact h.raise_sound _ _
      · exact (h.addRule ‹_› ‹_› _).respond_sound _ _

theorem Controller.Ok.startUp_sound (h : x.Ok p) : x.startUp.Sound p := by
  unfold Controller.startUp
  split
  · exact h.raise_sound _ _
  · exact (h.start ‹_›).respond_sound _ _
  · exact h.raise_sound _ _

theorem Controller.Ok.shutDown_sound (h : x.Ok p) : (x.shutDown p).Sound p := by
  unfold Controller.shutDown
  split
  · exact h.raise_sound _ _
  · exact h.raise_sound _ _
  · refine ⟨h.hwReset_uninitialized x.bt none none none none, ?_⟩
    split <;> simp [Event.FramesValid]

theorem Controller.Ok.submit_sound (h : x.Ok p) (id : BitVec 16) (length : BitVec 8) (data : BitVec 64) :
    (x.submit p id length data).Sound p := by
  unfold Controller.submit
  split
  · exact h.raise_sound _ _
  · split
    · exact h.raise_sound _ _
    · split
      · exact h.raise_sound _ _
      · rename_i hrun hvalid hroom
        have hr : x.cstate = .running := Decidable.not_not.mp hrun
        have hlength : length.toNat ≤ 8 := by
          simp only [validFrame, Bool.not_eq_false, Bool.and_eq_true, decide_eq_true_eq] at hvalid
          exact hvalid.2
        refine Controller.Ok.respond_sound (h.setTxq ?_ ?_ fun hn => absurd hr hn) _ _
        · have hbound := h.txqBound
          rw [List.length_append, List.length_singleton]
          omega
        · intro e he
          rcases List.mem_append.mp he with hold | hnew
          · exact h.txqCodes e hold
          · rw [List.mem_singleton.mp hnew, elemDlc_encodeElem]
            exact lenToDlc_le hlength

theorem Controller.Ok.registerRx_sound (h : x.Ok p) (queueId : BitVec 8) (handler : Handler) :
    (x.registerRx queueId handler).Sound p := by
  unfold Controller.registerRx
  split
  · exact h.raise_sound _ _
  · exact (h.setCbRx _ _).respond_sound _ _

theorem Controller.Ok.pollReceive_sound (h : x.Ok p) (queueId : BitVec 8) (timeout : BitVec 32) :
    (x.pollReceive p queueId timeout).Sound p := by
  unfold Controller.pollReceive
  split
  · exact h.raise_sound _ _
  · rename_i hrun
    split
    · exact h.raise_sound _ _
    · rename_i q _
      split
      · exact h.raise_sound _ _
      · split
        · exact .inr (.inl rfl)
        · split
          · refine ⟨h.extractOne q, fun e he => ?_⟩
            rcases List.mem_append.mp he with hx | hresp
            · exact x.extractOne_framesValid p q e hx
            · simp [List.mem_singleton.mp hresp, Event.FramesValid]
          · split
            · exact h.raise_sound _ _
            · exact Controller.Ok.done_sound (h.setPoll fun hn => absurd hn hrun)

/-- With the invariants a frame that reaches the filter of a Running instance is never fatal. -/
theorem Controller.Ok.acceptFrame_sound (h : x.Ok p) (hr : x.cstate = .running) (id : CanId) (dlc : Dlc)
    (data : List Byte) : (x.acceptFrame p id dlc data).Sound p := by
  rcases Controller.acceptFrame_cases p id dlc data x with ⟨hc, -⟩ | ⟨_, -, he⟩ | ⟨q, hp, slot, -, he⟩
  · exact absurd hc (h.classify_ne_corrupt hr id)
  · rw [he]; exact h.done_sound
  · rw [he]; exact (h.stored hr id dlc data q _).done_sound

theorem Controller.Ok.transmit_sound (h : x.Ok p) (hr : x.cstate = .running) (inst : InstId) :
    (x.transmit p inst).Sound p := by
  unfold Controller.transmit
  dsimp only
  split
  · exact h.done_sound
  · split
    · exact (h.takeTx _).acceptFrame_sound hr _ _ _
    · exact ⟨h.takeTx _, by simp [Event.FramesValid, decodeElem]⟩

theorem Controller.Ok.takeOldest_sound (h : x.Ok p) : x.takeOldest.Sound p := by
  unfold Controller.takeOldest
  split
  · exact Controller.Ok.done_sound { h with }
  · rename_i c rest hchan
    have hlen : rest.length ≤ p.chanCapacity := by
      have hbound := h.chanBound
      rw [hchan, List.length_cons] at hbound
      omega
    have hcodes : ∀ e ∈ rest, (elemDlc e).toNat ≤ 8 := fun e he => h.chanLengths e (by simp [hchan, he])
    exact ⟨{ h.setChan hlen hcodes with }, by simp [Event.FramesValid, decodeChan_valid]⟩

theorem Controller.Ok.dequeue_sound (h : x.Ok p) : x.dequeue.Sound p := by
  unfold Controller.dequeue
  split
  · exact .inr (.inr rfl)
  · exact h.takeOldest_sound

theorem Controller.Ok.dispatchBlock_sound (h : x.Ok p) (m : Reasons) (c : ReasonClass) :
    (LocalResult.done (x.dispatchBlock p m c).1 (x.dispatchBlock p m c).2).Sound p := by
  cases c <;> unfold Controller.dispatchBlock <;> dsimp only <;> split
  case rxq0.isTrue => exact ⟨h.extractOne _, x.extractOne_framesValid p _⟩
  case rxq1.isTrue => exact ⟨h.extractOne _, x.extractOne_framesValid p _⟩
  case err.isTrue => exact ⟨h.unlatch _, by dsimp only; split <;> simp [Event.FramesValid]⟩
  case hp.isTrue => exact ⟨h.unlatch _, by dsimp only; split <;> simp [Event.FramesValid]⟩
  all_goals exact h.done_sound

theorem Controller.Ok.dispatchBlocks_sound (m : Reasons) (cs : List ReasonClass) :
    ∀ {x : Controller}, x.Ok p →
      (LocalResult.done (Controller.dispatchBlocks p m cs x).1 (Controller.dispatchBlocks p m cs x).2).Sound p := by
  induction cs with
  | nil => intro x h; exact h.done_sound
  | cons c cs ih =>
    intro x h
    obtain ⟨hok, hevs⟩ := h.dispatchBlock_sound m c
    obtain ⟨hok', hevs'⟩ := ih hok
    exact ⟨hok', fun e he => (List.mem_append.mp he).elim (hevs e) (hevs' e)⟩

theorem Controller.Ok.finishPoll_sound (h : x.Ok p) (q : QueueId) :
    (LocalResult.done (x.finishPoll p q).1 (x.finishPoll p q).2).Sound p := by
  refine ⟨(h.extractOne q).setPoll fun _ => rfl, fun e he => ?_⟩
  rcases List.mem_append.mp he with hx | hdone
  · exact x.extractOne_framesValid p q e hx
  · simp [List.mem_singleton.mp hdone, Event.FramesValid]

theorem Controller.Ok.tick_sound (h : x.Ok p) : (LocalResult.done (x.tick p).1 (x.tick p).2).Sound p := by
  unfold Controller.tick
  split
  · exact h.done_sound
  · rename_i held hpoll
    split
    · refine Controller.Ok.done_sound (h.setPoll fun hn => ?_)
      obtain ⟨-, -, -, -, hnone⟩ := h.quietWhenNotRunning hn
      simp [hnone] at hpoll
    · split
      · exact h.finishPoll_sound _
      · exact ⟨h.setPoll fun _ => rfl, by simp [Event.FramesValid]⟩

/-- Whatever the step, what it does to an instance with the invariants is sound. -/
theorem Controller.Ok.localBody_sound (h : x.Ok p) (i : Instr) : (localBody p i x).Sound p := by
  cases i with
  | init => exact h.initialise_sound _ _ _
  | addFilter => exact h.addFilter_sound _ _ _ _
  | start => exact h.startUp_sound
  | send => exact h.submit_sound _ _ _
  | stop => exact h.shutDown_sound
  | regRxCb => exact h.registerRx_sound _ _
  | regErrCb => exact (h.setCbErr _).respond_sound _ _
  | regHpCb => exact (h.setCbHp _).respond_sound _ _
  | pollRx => exact h.pollReceive_sound _ _
  | busRx =>
    dsimp only [localBody]
    split
    · split
      · exact h.done_sound
      · rename_i hcond
        have hr : x.cstate = .running := Decidable.not_not.mp fun hn => hcond (.inl hn)
        exact h.acceptFrame_sound hr _ _ _
    · exact .inl rfl
  | txXmit inst =>
    dsimp only [localBody]
    split
    · rename_i hen
      have hr : x.cstate = .running := by
        simp only [Controller.txEnabled, Bool.and_eq_true, decide_eq_true_eq] at hen
        exact hen.1
      exact h.transmit_sound hr inst
    · exact h.done_sound
  | irqDispatch =>
    dsimp only [localBody]
    split
    · exact Controller.Ok.dispatchBlocks_sound _ _ h
    · exact h.done_sound
  | busStatus =>
    dsimp only [localBody]
    split
    · split
      · exact (h.latch ‹_› _).done_sound
      · exact h.done_sound
    · exact .inl rfl
  | tick => exact h.done_sound
  | chanDeq => exact h.dequeue_sound

end

/-! ### Sound answers of the block -/

/-- An answer that keeps the invariants of R34, is no fault, and refuses only what the spec refuses. -/
def SoundAnswer : Host.Outcome State Fault Refusal → Prop
  | .next t => t.Ok
  | .fault _ => False
  | .refused r => r.Specified

section
variable {s : State}

theorem State.Ok.emit (h : s.Ok) (inst : InstId) {evs : List Event} (hevs : ∀ e ∈ evs, e.FramesValid) :
    (s.emit inst evs).Ok where
  noFault := h.noFault
  ctrls := h.ctrls
  frames t ht := by
    rcases List.mem_append.mp ht with hold | hnew
    · exact h.frames t hold
    · obtain ⟨e, he, rfl⟩ := List.mem_map.mp hnew
      exact hevs e he

theorem State.Ok.commit (h : s.Ok) (inst : InstId) {y : Controller} {evs : List Event} (hy : y.Ok s.params)
    (hevs : ∀ e ∈ evs, e.FramesValid) : (s.commit inst y evs).Ok where
  noFault := h.noFault
  ctrls x hx := (List.mem_or_eq_of_mem_set hx).elim (h.ctrls x) fun hxy => hxy ▸ hy
  frames := (h.emit inst hevs).frames

theorem State.Ok.setSchedule (h : s.Ok) (slots : List Slot) : { s with schedule := slots }.Ok := { h with }

theorem State.Ok.ctrl?_ok (h : s.Ok) {inst : InstId} {x : Controller} (hx : s.ctrl? inst = some x) : x.Ok s.params :=
  h.ctrls x (List.mem_of_getElem? hx)

theorem State.Ok.settle_sound (h : s.Ok) (inst : InstId) {r : LocalResult} (hr : r.Sound s.params) :
    SoundAnswer (s.settle inst r) := by
  cases r with
  | done y evs => exact h.commit inst hr.1 hr.2
  | fatal => exact hr.elim
  | refused r => exact hr

/-- A tick keeps the invariants of every instance it visits, and its events carry valid frames. -/
theorem tickFrom_sound (p : Params) (l : List Controller) : ∀ (k : Nat), (∀ x ∈ l, x.Ok p) →
    (∀ x ∈ (tickFrom p k l).1, x.Ok p) ∧ ∀ t ∈ (tickFrom p k l).2, t.event.FramesValid := by
  induction l with
  | nil => intro k _; simp [tickFrom]
  | cons x xs ih =>
    intro k h
    obtain ⟨hok, hevs⟩ := (h x (by simp)).tick_sound
    obtain ⟨hoks, hevss⟩ := ih (k + 1) fun y hy => h y (by simp [hy])
    refine ⟨fun y hy => ?_, fun t ht => ?_⟩
    · rcases List.mem_cons.mp hy with rfl | hy
      · exact hok
      · exact hoks y hy
    · rcases List.mem_append.mp ht with ht | ht
      · obtain ⟨e, he, rfl⟩ := List.mem_map.mp ht
        exact hevs e he
      · exact hevss t ht

theorem State.Ok.execTick_sound (h : s.Ok) : SoundAnswer (execTick s) := by
  obtain ⟨hctrls, hevs⟩ := tickFrom_sound s.params s.ctrls 0 h.ctrls
  exact ⟨h.noFault, hctrls, fun t ht => (List.mem_append.mp ht).elim (h.frames t) (hevs t)⟩

theorem State.Ok.exec_sound (h : s.Ok) (i : Instr) : SoundAnswer (exec i s) := by
  cases hi : i.inst? with
  | none => rw [inst?_eq_none hi]; exact h.execTick_sound
  | some inst =>
    cases hc : s.ctrl? inst with
    | some x => rw [exec_known hi hc]; exact h.settle_sound inst ((h.ctrl?_ok hc).localBody_sound i)
    | none =>
      cases hh : i.isHostCommand with
      | true => rw [exec_unknown_host hi hh hc]; exact h.emit inst (by simp [Event.FramesValid])
      | false => rw [exec_unknown_event hi hh hc]; exact .inl rfl

theorem State.Ok.rejectWord_sound (h : s.Ok) (e : DecodeError) : SoundAnswer (rejectWord e s) := by
  cases e with
  | illegal inst => exact h.emit inst (by simp [Event.FramesValid])
  | malformed op inst => exact h.emit inst (by simp [Event.FramesValid])
  | notAStep => exact .inl rfl

theorem State.Ok.execPollDone (h : s.Ok) (inst : InstId) : (execPollDone inst s).Ok := by
  rcases execPollDone_cases inst s with he | ⟨x, held, hx, -, -, he⟩ <;> rw [he]
  · exact h
  · obtain ⟨hok, hevs⟩ := (h.ctrl?_ok hx).finishPoll_sound held.queue
    exact h.commit inst hok hevs

theorem State.Ok.execDeqResume_sound (h : s.Ok) (inst : InstId) : SoundAnswer (execDeqResume inst s) := by
  unfold Machine.execDeqResume
  split
  · exact h
  · split
    · exact h.settle_sound inst (h.ctrl?_ok ‹_›).takeOldest_sound
    · exact h

theorem State.Ok.runSlot_sound (h : s.Ok) (slot : Slot) : SoundAnswer (runSlot slot s) := by
  cases slot with
  | word w =>
    unfold runSlot runWord
    dsimp only
    split
    · exact h.exec_sound _
    · exact h.rejectWord_sound _
  | pollDone inst => exact h.execPollDone inst
  | deqResume inst => exact h.execDeqResume_sound inst

/-- From a state with the invariants every step's answer is sound. -/
theorem State.Ok.step_sound (h : s.Ok) : SoundAnswer (step s) := by
  unfold step
  rw [if_neg (by simp [h.noFault])]
  unfold State.fetch
  cases s.schedule with
  | nil => exact h
  | cons slot rest => exact (h.setSchedule rest).runSlot_sound slot

end

/-! ### Power-on -/

theorem Controller.powerOn_ok (p : Params) : (Controller.powerOn p).Ok p where
  filtersLength := by simp [powerOn]
  nextSlotLe := Nat.zero_le _
  filtersUsed := by simp [powerOn]
  rxqBound q := by cases q <;> exact Nat.zero_le _
  txqBound := Nat.zero_le _
  chanBound := Nat.zero_le _
  clearWhenUninitialized := by simp [powerOn]
  quietWhenNotRunning := by simp [powerOn]
  configuredHoldsValues h := absurd rfl h
  txqCodes := by simp [powerOn]
  chanLengths := by simp [powerOn]

theorem Controller.powerOn_tidy (p : Params) : (Controller.powerOn p).Tidy where
  rxqCanonical q := by cases q <;> simp [powerOn, rxq]
  txqCanonical := by simp [powerOn]
  chanCanonical := by simp [powerOn]
  pendingReceiveBits := by simp [powerOn]
  hpEnable := by simp [powerOn]
  hpDescribed := by simp [powerOn]
  rxHandlers q := by cases q <;> simp [powerOn, cbRx]
  errHandler := by simp [powerOn]
  hpHandler := by simp [powerOn]
  pollAlone := by simp [powerOn]

/-- Every instance of the power-on state is the power-on instance. -/
theorem eq_powerOn_of_mem {p : Params} {n : Nat} {x : Controller} (h : x ∈ (State.powerOn p n).ctrls) :
    x = Controller.powerOn p :=
  List.eq_of_mem_replicate h

theorem State.powerOn_ok (p : Params) (n : Nat) : (State.powerOn p n).Ok where
  noFault := rfl
  ctrls _ hx := eq_powerOn_of_mem hx ▸ Controller.powerOn_ok p
  frames := by simp [powerOn]

theorem State.powerOn_tidy (p : Params) (n : Nat) : (State.powerOn p n).Tidy :=
  fun _ hx => eq_powerOn_of_mem hx ▸ Controller.powerOn_tidy p

/-- The invariants hold at power-on, offering a step does not touch them, and every step keeps them. -/
theorem Reachable.ok {p : Params} {n : Nat} {s : State} (h : Reachable p n s) : s.Ok := by
  induction h with
  | powerOn => exact State.powerOn_ok p n
  | offer slot _ ih => exact ih.setSchedule _
  | step _ hstep ih =>
    have hsound := ih.step_sound
    rwa [hstep] at hsound

/-- Settles O11: a next state that `step` answers from a state with the invariants is a sound answer. -/
theorem stepKeepsInvariants : Obligations.StepKeepsInvariants := by
  unfold Obligations.StepKeepsInvariants
  intro s t hs hstep
  have hsound := hs.step_sound
  rwa [hstep] at hsound

/-- Settles O13, by induction on how the state was reached. -/
theorem reachableStatesMeetInvariants : Obligations.ReachableStatesMeetInvariants := by
  unfold Obligations.ReachableStatesMeetInvariants
  exact fun p n s hs => hs.ok

/-- Settles O14: a sound answer is a state with a clear flag or a refusal of the spec. -/
theorem invariantsExcludeFaults : Obligations.InvariantsExcludeFaults := by
  unfold Obligations.InvariantsExcludeFaults
  intro s hs
  have hsound := hs.step_sound
  cases hstep : step s with
  | next t =>
    rw [hstep] at hsound
    exact .inl ⟨t, rfl, hsound.noFault⟩
  | fault r =>
    rw [hstep] at hsound
    exact hsound.elim
  | refused r =>
    rw [hstep] at hsound
    exact .inr ⟨r, rfl, hsound⟩

/-- Settles O10. -/
theorem powerOnMeetsInvariants : Obligations.PowerOnMeetsInvariants := by
  unfold Obligations.PowerOnMeetsInvariants
  exact fun p n => ⟨State.powerOn_ok p n, State.powerOn_tidy p n⟩


/-! ### The parameters, the instances and the trace -/

/-- What no step takes back: the parameters and the number of instances stay (10_state.md R12), and the trace only grows (R32, R33). -/
def State.GrowsTo (s t : State) : Prop :=
  t.params = s.params ∧ t.ctrls.length = s.ctrls.length ∧ ∃ evs, t.trace = s.trace ++ evs

theorem State.GrowsTo.refl (s : State) : s.GrowsTo s := ⟨rfl, rfl, [], by simp⟩

theorem State.growsTo_emit (s : State) (inst : InstId) (evs : List Event) : s.GrowsTo (s.emit inst evs) :=
  ⟨rfl, rfl, _, rfl⟩

theorem State.growsTo_commit (s : State) (inst : InstId) (x : Controller) (evs : List Event) :
    s.GrowsTo (s.commit inst x evs) :=
  ⟨rfl, by simp, _, rfl⟩

theorem State.growsTo_of_settle {s t : State} {inst : InstId} {r : LocalResult} (h : s.settle inst r = .next t) :
    s.GrowsTo t := by
  rcases State.settle_next h with ⟨x, evs, -, rfl⟩ | ⟨-, rfl⟩
  · exact s.growsTo_commit inst x evs
  · exact State.GrowsTo.refl s

theorem tickFrom_length (p : Params) (l : List Controller) : ∀ k, (tickFrom p k l).1.length = l.length := by
  induction l with
  | nil => intro k; rfl
  | cons x xs ih => intro k; simp [tickFrom, ih]

/-- Only TICK names no instance. -/
theorem Slot.runSlot_of_inst?_eq_none {slot : Slot} (h : slot.inst? = none) (s : State) : runSlot slot s = execTick s := by
  cases slot with
  | word w =>
    simp only [Slot.inst?] at h
    cases hd : decode w with
    | ok i =>
      rw [hd] at h
      simp [runSlot, runWord, hd, inst?_eq_none h, exec]
    | error e => simp [hd] at h
  | pollDone inst => cases h
  | deqResume inst => cases h

theorem State.growsTo_of_runSlot {s t : State} {slot : Slot} (h : runSlot slot s = .next t) : s.GrowsTo t := by
  cases hi : slot.inst? with
  | none =>
    rw [Slot.runSlot_of_inst?_eq_none hi] at h
    cases h
    exact ⟨rfl, tickFrom_length _ _ _, _, rfl⟩
  | some inst =>
    obtain ⟨unknown, body, hrun⟩ := runSlot_local hi
    rw [hrun] at h
    cases hc : s.ctrl? inst with
    | some x =>
      rw [hc] at h
      exact State.growsTo_of_settle h
    | none =>
      rw [hc] at h
      cases unknown with
      | none => cases h
      | some evs =>
        cases h
        exact s.growsTo_emit inst evs

/-- Settles O15: what `step` takes from the schedule touches neither, and every scheduled step only adds to the trace. -/
theorem parametersFixedTraceGrows : Obligations.ParametersFixedTraceGrows := by
  unfold Obligations.ParametersFixedTraceGrows
  intro s t hstep
  obtain ⟨-, ⟨-, rfl⟩ | ⟨slot, rest, -, hrun⟩⟩ := step_next_cases hstep
  · exact State.GrowsTo.refl t
  · exact State.growsTo_of_runSlot (s := { s with schedule := rest }) hrun

/-! ### The fatal-assertion path (10_state.md R22, 60_exceptions.md R135) -/

theorem scanFrom_eq_noMatch {id : CanId} {l : List (Option FilterRule)} :
    ∀ {k : Nat}, (∀ o ∈ l, ∃ r, o = some r ∧ r.matchesId id = false) → scanFrom id k l = .noMatch := by
  induction l with
  | nil => intro k _; rfl
  | cons o rest ih =>
    intro k h
    obtain ⟨r, rfl, hr⟩ := h o (by simp)
    simpa [scanFrom, hr] using ih fun o' ho' => h o' (by simp [ho'])

/-- An empty slot before any match ends the scan as corrupt. -/
theorem scanFrom_eq_corrupt {id : CanId} {l : List (Option FilterRule)} :
    ∀ {n k : Nat}, l[k]? = some none → (∀ j, j < k → ∃ r, l[j]? = some (some r) ∧ r.matchesId id = false) →
      scanFrom id n l = .corrupt := by
  induction l with
  | nil => intro n k hk; simp at hk
  | cons o rest ih =>
    intro n k hk hbefore
    cases k with
    | zero =>
      cases Option.some.inj hk
      rfl
    | succ k =>
      obtain ⟨r, ho, hr⟩ := hbefore 0 (by omega)
      cases Option.some.inj ho
      simpa [scanFrom, hr] using ih hk fun j hj => hbefore (j + 1) (by omega)

/-- `Classify` gives no verdict on a frame on which the filter finds a violation. -/
theorem Controller.classify_of_violates {x : Controller} {id : CanId} (h : x.Violates id) : x.classify id = .corrupt := by
  unfold Controller.classify
  rcases h with ⟨k, hk, hnone, hbefore⟩ | ⟨hall, hnone⟩
  · have hscan : scanFrom id 0 (x.filters.take x.nextSlot) = .corrupt := by
      refine scanFrom_eq_corrupt (k := k) (by rw [List.getElem?_take_of_lt hk, hnone]) fun j hj => ?_
      rw [List.getElem?_take_of_lt (by omega)]
      exact hbefore j hj
    simp [hscan]
  · have hscan : scanFrom id 0 (x.filters.take x.nextSlot) = .noMatch := by
      refine scanFrom_eq_noMatch fun o ho => ?_
      obtain ⟨j, hj, rfl⟩ := List.mem_take_iff_getElem.mp ho
      obtain ⟨hslot, hlen⟩ := Nat.lt_min.mp hj
      obtain ⟨r, hr, hmatch⟩ := hall j hslot
      exact ⟨r, Option.some.inj ((List.getElem?_eq_getElem hlen).symm.trans hr), hmatch⟩
    simp [hscan, hnone]

theorem Controller.acceptFrame_of_violates {x : Controller} {id : CanId} (h : x.Violates id) (p : Params) (dlc : Dlc)
    (data : List Byte) : x.acceptFrame p id dlc data = .fatal := by
  simp [Controller.acceptFrame, Controller.classify_of_violates h]

/-- Settles O45: the filter's violation makes the local result fatal, which sets the flag that `step` tests first. -/
theorem violationHaltsTheBlock : Obligations.ViolationHaltsTheBlock := by
  unfold Obligations.ViolationHaltsTheBlock
  intro s inst x hx hrun
  refine ⟨fun id dlc data hloop hid hdlc hv => ?_, fun e hloop he hv => ?_, fun rest => rfl⟩
  · have hbody : localBody s.params (.busRx inst id dlc data 0) x = .fatal := by
      simp [localBody, busRxFormat, hid, hdlc, hrun, hloop, Controller.acceptFrame_of_violates hv]
    rw [exec_known rfl hx, hbody, State.settle_fatal]
  · have hen : x.txEnabled = true := by
      have hne : x.txq ≠ [] := fun hnil => by simp [hnil] at he
      simp [Controller.txEnabled, hrun, hne]
    have hv' : (x.takeTx s.params (txPosition s.params inst x.draws x.txq.length)).Violates (decodeElem e).1 := hv
    have hbody : localBody s.params (.txXmit inst) x = .fatal := by
      simp [localBody, hen, Controller.transmit, he, hloop, Controller.acceptFrame_of_violates hv']
    rw [exec_known rfl hx, hbody, State.settle_fatal]

/-! ### Pending reasons (10_state.md R18, R19; 60_exceptions.md R137) -/

section
variable (x : Controller)

/-- The receive bits of `irq_pending` read 0 (R18), so a receive reason is pending by its queue alone. -/
theorem Controller.pendingView_getLsbD_code (q : QueueId) :
    x.pendingView.getLsbD q.code = true ↔ x.rxq q ≠ [] := by
  have hmask : (hpMask ||| errMask).getLsbD q.code = false := by cases q <;> rfl
  simp only [Controller.pendingView, Controller.latched, BitVec.getLsbD_or, BitVec.getLsbD_and, hmask, Bool.and_false,
    Bool.false_or]
  cases q <;> by_cases h0 : x.rxq0 = [] <;> by_cases h1 : x.rxq1 = [] <;>
    simp [QueueId.code, Controller.rxq, h0, h1]

theorem Controller.pendingView_getLsbD_latched {b : Nat} (h2 : 2 ≤ b) (h6 : b < 6) :
    x.pendingView.getLsbD b = x.irqPending.getLsbD b := by
  have hmask : (hpMask ||| errMask).getLsbD b = true := by interval_cases b <;> rfl
  have hq0 : (if x.rxq0 = [] then 0 else 0x01 : Reasons).getLsbD b = false := by
    split <;> interval_cases b <;> rfl
  have hq1 : (if x.rxq1 = [] then 0 else 0x02 : Reasons).getLsbD b = false := by
    split <;> interval_cases b <;> rfl
  simp only [Controller.pendingView, Controller.latched, BitVec.getLsbD_or, BitVec.getLsbD_and, hmask, hq0, hq1,
    Bool.and_true, Bool.or_false]

theorem Controller.irqLines_getLsbD (b : Nat) :
    x.irqLines.getLsbD b = (x.pendingView.getLsbD b && x.irqEnable.getLsbD b) :=
  BitVec.getLsbD_and

theorem Controller.irqEnabled_iff (m : Reasons) :
    x.irqEnabled m = true ↔ x.cstate = .running ∧ x.irqLines ≠ 0 ∧ m = x.irqLines := by
  simp [Controller.irqEnabled, and_assoc]

variable {x} in
theorem Controller.Ok.irqLines_eq_zero {p : Params} (h : x.Ok p) (hn : x.cstate ≠ .running) : x.irqLines = 0 := by
  obtain ⟨h0, h1, -, hm, -⟩ := h.quietWhenNotRunning hn
  simp [Controller.irqLines, Controller.pendingView, Controller.latched, h0, h1, hm]

end

/-- Settles O57, bit by bit. -/
theorem pendingAndIrqLines : Obligations.PendingAndIrqLines := by
  unfold Obligations.PendingAndIrqLines
  intro x
  exact ⟨x.pendingView_getLsbD_code .q0, x.pendingView_getLsbD_code .q1, fun b => x.pendingView_getLsbD_latched,
    fun b _ => x.irqLines_getLsbD b, x.irqEnabled_iff, fun p h => h.irqLines_eq_zero⟩

/-! ### What is enabled at power-on -/

theorem State.onCtrl_eq_true {s : State} {inst : InstId} {f : Controller → Bool} (h : s.onCtrl inst f = true) :
    ∃ x ∈ s.ctrls, f x = true := by
  unfold State.onCtrl at h
  split at h
  · cases h
  · exact ⟨_, List.mem_of_getElem? ‹_›, h⟩

/-- No condition on an instance is met at power-on that the power-on instance does not meet. -/
theorem State.powerOn_onCtrl {p : Params} {n : Nat} {inst : InstId} {f : Controller → Bool}
    (hf : f (Controller.powerOn p) = false) : (State.powerOn p n).onCtrl inst f = false := by
  refine Bool.eq_false_iff.mpr fun h => ?_
  obtain ⟨x, hx, hfx⟩ := State.onCtrl_eq_true h
  rw [eq_powerOn_of_mem hx, hf] at hfx
  cases hfx

/-- At power-on no agent but the host and time has an enabled step: none of the instances is Running. -/
theorem State.powerOn_enables {p : Params} {n : Nat} {i : Instr} (h : (State.powerOn p n).enables i = true) :
    i.isHostCommand = true ∨ i = .tick := by
  cases i with
  | busRx => simp [State.enables, State.powerOn_onCtrl, Controller.powerOn] at h
  | txXmit => simp [State.enables, State.powerOn_onCtrl, Controller.txEnabled, Controller.powerOn] at h
  | irqDispatch => simp [State.enables, State.powerOn_onCtrl, Controller.irqEnabled, Controller.powerOn] at h
  | busStatus => simp [State.enables, State.powerOn_onCtrl, Controller.powerOn] at h
  | tick => exact .inr rfl
  | _ => exact .inl rfl

/-- Settles O8. -/
theorem powerOnValues : Obligations.PowerOnValues := by
  unfold Obligations.PowerOnValues
  refine ⟨rfl, rfl, rfl, fun x hx => ?_, fun i => State.powerOn_enables⟩
  rw [eq_powerOn_of_mem hx]
  exact ⟨rfl, rfl, rfl, rfl, rfl, rfl, rfl, rfl, rfl, rfl, rfl, rfl, rfl, rfl, rfl, rfl, rfl, rfl, rfl, rfl⟩

end Sys2Proof.Machine

/-! PROOFS of the family 30_encoding.md: the encoder and the decoder are inverse to each other, events that are not steps, the
packed forms, and the tidiness that every step keeps. -/

namespace Sys2Proof

/-! ### Encoder and decoder (30_encoding.md R61 to R71) -/

/-- With its fixed bits right a word is decoded by its fields alone. -/
theorem decode_of_fixedBitsRight {w : StepWord} (hf : fixedBitsRight w = true) : decode w = decodeFields w := by
  unfold decode
  split
  · next h0 => simp [decodeFields, h0]
  · rfl

/-- Whatever decodes has its fixed bits right (R71 (b)). -/
theorem fixedBitsRight_of_decode {w : StepWord} {i : Instr} (h : decode w = .ok i) : fixedBitsRight w = true := by
  unfold decode at h
  split at h
  · cases h
  · split at h
    · assumption
    · split at h <;> cases h

/-- The fields of a step's word are the step's operands: each field is reached by dropping the fields below it. -/
theorem decodeFields_encode (i : Instr) : decodeFields (encode i) = .ok i := by
  obtain ⟨hop, hinst, -⟩ := Laws.Encoding.statement_of i
  cases i <;>
    simp only [decodeFields, hop, hinst, Instr.opcode, Instr.inst?, Option.getD_some, BitVec.ofNat_eq_ofNat,
      BitVec.toNat_ofNat, Nat.reducePow, Nat.reduceMod, Except.ok.injEq, Instr.init.injEq, Instr.addFilter.injEq,
      Instr.send.injEq, Instr.regRxCb.injEq, Instr.regErrCb.injEq, Instr.regHpCb.injEq, Instr.pollRx.injEq,
      Instr.busRx.injEq, Instr.irqDispatch.injEq, Instr.busStatus.injEq, true_and]
  all_goals and_intros
  all_goals
    unfold encode
    repeat (rw [BitVec.extractLsb'_append_eq_of_le]; rotate_left; · decide)
    exact BitVec.extractLsb'_append_eq_right

/-- A slice below the op field that the op fixes is 0 (R71 (b)). -/
theorem slice_eq_zero {w : StepWord} {op : OpCode} (hf : fixedBitsRight w = true) (hop : opField w = op) (start len : Nat)
    (hlow : start + len ≤ 124 := by decide)
    (hmask : (fixedMask op).extractLsb' start len = BitVec.allOnes len := by decide) :
    w.extractLsb' start len = 0#len := by
  have hw : w &&& fixedMask op = op ++ (0 : BitVec 124) := by
    subst hop
    simpa [fixedBitsRight] using hf
  calc
    w.extractLsb' start len = (w &&& fixedMask op).extractLsb' start len := by
      rw [BitVec.extractLsb'_and, hmask, BitVec.and_allOnes]
    _ = (0#124).extractLsb' start len := by rw [hw, BitVec.extractLsb'_append_eq_of_add_le hlow]; rfl
    _ = 0#len := BitVec.extractLsb'_zero

/-- The formats I, F, Z, S, C, B, Q and TICK's each cover the whole word (30_encoding.md R62 to R70). -/
theorem formats_cover (w : StepWord) :
    opField w ++ instField w ++ w.extractLsb' 104 16 ++ w.extractLsb' 88 16 ++ w.extractLsb' 72 16 ++ w.extractLsb' 56 16 ++
      w.extractLsb' 48 8 ++ w.extractLsb' 46 2 ++ w.extractLsb' 40 6 ++ w.extractLsb' 0 40 = w ∧
    opField w ++ instField w ++ w.extractLsb' 112 8 ++ w.extractLsb' 104 8 ++ w.extractLsb' 88 16 ++ w.extractLsb' 72 16 ++
      w.extractLsb' 0 72 = w ∧
    opField w ++ instField w ++ w.extractLsb' 0 120 = w ∧
    opField w ++ instField w ++ w.extractLsb' 104 16 ++ w.extractLsb' 96 8 ++ w.extractLsb' 32 64 ++ w.extractLsb' 0 32 = w ∧
    opField w ++ instField w ++ w.extractLsb' 112 8 ++ w.extractLsb' 80 32 ++ w.extractLsb' 0 80 = w ∧
    opField w ++ instField w ++ w.extractLsb' 104 16 ++ w.extractLsb' 96 8 ++ w.extractLsb' 32 64 ++ w.extractLsb' 25 7 ++
      w.extractLsb' 24 1 ++ w.extractLsb' 0 24 = w ∧
    opField w ++ instField w ++ w.extractLsb' 118 2 ++ w.extractLsb' 112 6 ++ w.extractLsb' 0 112 = w ∧
    opField w ++ w.extractLsb' 0 124 = w := by
  unfold opField instField
  and_intros
  all_goals
    repeat (rw [BitVec.extractLsb'_append_extractLsb'_eq_extractLsb']; rotate_left; · rfl)
    exact BitVec.extractLsb'_eq_self

/-- With its fixed bits right a word is its op, the fields that are decoded, and zeros in between. -/
theorem encode_of_decodeFields {w : StepWord} {i : Instr} (hf : fixedBitsRight w = true) (h : decodeFields w = .ok i) :
    encode i = w := by
  obtain ⟨hI, hF, hZ, hS, hC, hB, hQ, hT⟩ := formats_cover w
  unfold decodeFields at h
  split at h <;> cases h
  case h_2 hop =>
    have hop : opField w = 1#4 := BitVec.eq_of_toNat_eq hop
    rw [hop, slice_eq_zero hf hop 0 40, slice_eq_zero hf hop 46 2] at hI
    exact hI
  case h_3 hop =>
    have hop : opField w = 2#4 := BitVec.eq_of_toNat_eq hop
    rw [hop, slice_eq_zero hf hop 0 72] at hF
    exact hF
  case h_4 hop =>
    have hop : opField w = 3#4 := BitVec.eq_of_toNat_eq hop
    rw [hop, slice_eq_zero hf hop 0 120] at hZ
    exact hZ
  case h_5 hop =>
    have hop : opField w = 4#4 := BitVec.eq_of_toNat_eq hop
    rw [hop, slice_eq_zero hf hop 0 32] at hS
    exact hS
  case h_6 hop =>
    have hop : opField w = 5#4 := BitVec.eq_of_toNat_eq hop
    rw [hop, slice_eq_zero hf hop 0 120] at hZ
    exact hZ
  case h_7 hop =>
    have hop : opField w = 6#4 := BitVec.eq_of_toNat_eq hop
    rw [hop, slice_eq_zero hf hop 0 80] at hC
    exact hC
  case h_8 hop =>
    have hop : opField w = 7#4 := BitVec.eq_of_toNat_eq hop
    rw [hop, slice_eq_zero hf hop 0 80, slice_eq_zero hf hop 112 8] at hC
    exact hC
  case h_9 hop =>
    have hop : opField w = 8#4 := BitVec.eq_of_toNat_eq hop
    rw [hop, slice_eq_zero hf hop 0 80, slice_eq_zero hf hop 112 8] at hC
    exact hC
  case h_10 hop =>
    have hop : opField w = 9#4 := BitVec.eq_of_toNat_eq hop
    rw [hop, slice_eq_zero hf hop 0 80] at hC
    exact hC
  case h_11 hop =>
    have hop : opField w = 10#4 := BitVec.eq_of_toNat_eq hop
    rw [hop, slice_eq_zero hf hop 0 24, slice_eq_zero hf hop 25 7] at hB
    exact hB
  case h_12 hop =>
    have hop : opField w = 11#4 := BitVec.eq_of_toNat_eq hop
    rw [hop, slice_eq_zero hf hop 0 120] at hZ
    exact hZ
  case h_13 hop =>
    have hop : opField w = 12#4 := BitVec.eq_of_toNat_eq hop
    rw [hop, slice_eq_zero hf hop 0 112, slice_eq_zero hf hop 118 2] at hQ
    exact hQ
  case h_14 hop =>
    have hop : opField w = 13#4 := BitVec.eq_of_toNat_eq hop
    rw [hop, slice_eq_zero hf hop 0 112, slice_eq_zero hf hop 118 2] at hQ
    exact hQ
  case h_15 hop =>
    have hop : opField w = 14#4 := BitVec.eq_of_toNat_eq hop
    rw [hop, slice_eq_zero hf hop 0 124] at hT
    exact hT
  case h_16 =>
    have hlt := (opField w).isLt
    have hop : opField w = 15#4 := by
      refine BitVec.eq_of_toNat_eq (?_ : (opField w).toNat = 15)
      simp only [imp_false] at *
      omega
    rw [hop, slice_eq_zero hf hop 0 120] at hZ
    exact hZ

/-- Settles O1: a well-formed step's word has its fixed bits right, and its fields are the operands. -/
theorem decodeOfEncode : Obligations.DecodeOfEncode := by
  unfold Obligations.DecodeOfEncode
  intro i hi
  obtain ⟨-, -, hfixed⟩ := Laws.Encoding.statement_of i
  rw [decode_of_fixedBitsRight (hfixed hi), decodeFields_encode]

/-- Settles O2. -/
theorem encodeOfDecode : Obligations.EncodeOfDecode := by
  unfold Obligations.EncodeOfDecode
  intro w i h
  have hf := fixedBitsRight_of_decode h
  rw [decode_of_fixedBitsRight hf] at h
  exact encode_of_decodeFields hf h

end Sys2Proof

namespace Sys2Proof.Machine

/-! ### Events that are not steps (30_encoding.md R71 (d)) -/

/-- Only BUS_RX and BUS_STATUS have constraints to break, and both test them first. -/
theorem exec_of_not_wellFormed {i : Instr} (h : ¬ WellFormed i) (s : State) : exec i s = .refused .notAStep := by
  cases i
  case busRx => exact if_neg h
  case busStatus => exact if_neg h
  all_goals exact absurd rfl h

/-- The one reason an event's word decodes to nothing is that it is not a step. -/
theorem decode_error_of_event {w : StepWord} {e : DecodeError} (hev : isHostOp (opField w) = false)
    (h : decode w = .error e) : e = .notAStep := by
  unfold decode at h
  split at h
  · next h0 => simp [h0, isHostOp] at hev
  · split at h
    · unfold decodeFields at h
      split at h <;> cases h
      next h0 => simp [h0, isHostOp] at hev
    · simpa [hev] using h.symm

/-- Settles O6. A word that decodes is the encoding of what it decodes to, so an event's word that encodes no well-formed step
decodes to nothing or to an ill-formed event. -/
theorem illFormedEventIsNoStep : Obligations.IllFormedEventIsNoStep := by
  unfold Obligations.IllFormedEventIsNoStep
  refine ⟨fun s w rest hfault hsched hev hbad => ?_, fun s i h => exec_of_not_wellFormed h s,
    fun s i inst hh hi hs => exec_unknown_event hi hh hs⟩
  have hstep : step s = runWord w { s with schedule := rest } := by
    simp [step, State.fetch, hfault, hsched, runSlot]
  rw [hstep, runWord]
  cases hd : decode w with
  | error e => rw [decode_error_of_event hev hd]; rfl
  | ok i => exact exec_of_not_wellFormed (fun hw => hbad i hw (encodeOfDecode w i hd)) _

/-! ### The packed forms (30_encoding.md R59, R60) -/

theorem FilterRule.packed_fields (r : FilterRule) :
    r.packed.extractLsb' 0 11 = r.id2 ∧ r.packed.extractLsb' 11 5 = 0#5 ∧ r.packed.extractLsb' 16 11 = r.id1 ∧
      r.packed.extractLsb' 27 3 = BitVec.ofNat 3 r.action.code ∧ r.packed.extractLsb' 30 2 = BitVec.ofNat 2 r.kind.code := by
  unfold FilterRule.packed
  refine ⟨?_, ?_, ?_, ?_, ?kind⟩
  case kind =>
    repeat (rw [BitVec.extractLsb'_append_eq_of_le]; rotate_left; · decide)
    exact BitVec.extractLsb'_eq_self
  all_goals
    repeat (rw [BitVec.extractLsb'_append_eq_of_le]; rotate_left; · decide)
    exact BitVec.extractLsb'_append_eq_right

theorem HpStatus.packed_fields (d : HpStatus) :
    d.packed.extractLsb' 0 5 = BitVec.ofNat 5 d.slot ∧ d.packed.extractLsb' 5 1 = BitVec.ofNat 1 d.queue.code ∧
      d.packed.getLsbD 6 = d.stored ∧ d.packed.getLsbD 7 = d.valid := by
  unfold HpStatus.packed
  refine ⟨BitVec.extractLsb'_append_eq_right, ?_, ?_, ?_⟩
  · rw [BitVec.extractLsb'_append_eq_of_le (by decide)]
    exact BitVec.extractLsb'_append_eq_right
  all_goals
    repeat rw [BitVec.getLsbD_append]
    simp

/-- Settles O30: the codes and the slot fit their fields. -/
theorem packedRegisterForms : Obligations.PackedRegisterForms := by
  unfold Obligations.PackedRegisterForms
  refine ⟨fun r => ?_, fun d hslot => ?_⟩
  · obtain ⟨hid2, hzero, hid1, haction, hkind⟩ := r.packed_fields
    refine ⟨hid2, hzero, hid1, ?_, ?_⟩
    · rw [haction]
      cases r.action <;> rfl
    · rw [hkind]
      cases r.kind <;> rfl
  · obtain ⟨hs, hq, hstored, hvalid⟩ := d.packed_fields
    refine ⟨?_, ?_, hstored, hvalid⟩
    · rw [hs, BitVec.toNat_ofNat]
      omega
    · rw [hq]
      cases d.queue <;> rfl

/-! ### Elements whose reserved bits and unused room are 0 (30_encoding.md R57, R58) -/

/-- An element packed from as many bytes as its code names has nothing but zeros in the unused room (40_frame_codec.md R78). -/
theorem canonical_encodeElem (id : CanId) {dlc : Dlc} {data : List Byte} (h : data.length = dlcToLen dlc) :
    Elem.Canonical (encodeElem id dlc data) := by
  have htake : data.take (dlcToLen dlc) = data := by rw [← h, List.take_length]
  have hpayload : payload (packBytes data) (dlcToLen dlc) = data := by
    rw [← h]
    exact payload_packBytes (h ▸ dlcToLen_le dlc)
  unfold Elem.Canonical
  rw [elemId_encodeElem, elemDlc_encodeElem, elemData_encodeElem, htake, hpayload]

theorem dlcToLen_ofNat {n : Nat} (h : n ≤ 8) : dlcToLen (BitVec.ofNat 4 n) = n := by
  have hn : n % 2 ^ 4 = n := Nat.mod_eq_of_lt (by omega)
  rw [dlcToLen, BitVec.toNat_ofNat, hn, if_pos h]

theorem canonical_encodeChan {f : Frame} (h : f.Valid) : Elem.Canonical (encodeChan f) := by
  obtain ⟨hlen, hdata⟩ := h
  exact canonical_encodeElem f.id (by rw [dlcToLen_ofNat hlen, hdata])

/-! ### Updates that keep an instance tidy (`Controller.Tidy`) -/

section
variable {p : Params} {x : Controller}

theorem Controller.Tidy.setRxq (h : x.Tidy) {l : List Elem} (hl : ∀ e ∈ l, Elem.Canonical e) (q : QueueId) :
    (x.setRxq l q).Tidy := by
  have hrxq : ∀ r, ∀ e ∈ (x.setRxq l q).rxq r, Elem.Canonical e := by
    intro r
    by_cases hr : r = q
    · simpa [hr] using hl
    · simpa [Controller.rxq_setRxq_ne x l hr] using h.rxqCanonical r
  cases q <;> exact { h with rxqCanonical := hrxq }

theorem Controller.Tidy.setTxq (h : x.Tidy) {l : List Elem} (hl : ∀ e ∈ l, Elem.Canonical e) : { x with txq := l }.Tidy :=
  { h with txqCanonical := hl }

theorem Controller.Tidy.setChan (h : x.Tidy) {l : List Elem} (hl : ∀ c ∈ l, Elem.Canonical c) : { x with chan := l }.Tidy :=
  { h with chanCanonical := hl }

theorem Controller.Tidy.setPoll (h : x.Tidy) {o : Option Poll}
    (ho : ∀ held, o = some held → 1 ≤ held.remaining ∧ x.rxIrqEnabled held.queue = false) : { x with poll := o }.Tidy :=
  { h with pollAlone := ho }

theorem Controller.Tidy.setCbRx (h : x.Tidy) {o : Option Handler} (ho : ∀ g, o = some g → g ≠ 0) (q : QueueId) :
    (x.setCbRx o q).Tidy := by
  have hcb : ∀ r g, (x.setCbRx o q).cbRx r = some g → g ≠ 0 := by
    intro r
    cases q <;> cases r
    case q0.q0 => exact ho
    case q1.q1 => exact ho
    case q0.q1 => exact h.rxHandlers .q1
    case q1.q0 => exact h.rxHandlers .q0
  cases q <;> exact { h with rxHandlers := hcb }

theorem Controller.Tidy.markLost (h : x.Tidy) (q : QueueId) : (x.markLost q).Tidy := by
  cases q <;> exact { h with }

theorem Controller.Tidy.latch (h : x.Tidy) {m : Reasons} (hrx : m &&& rxMask = 0)
    (hhp : m &&& hpMask ≠ 0 → x.hpStatus.valid = true) : (x.latch m).Tidy :=
  { h with
    pendingReceiveBits := by
      rw [latch_irqPending, BitVec.and_or_distrib_right, h.pendingReceiveBits, hrx]
      rfl
    hpDescribed := by
      rw [latch_irqPending, BitVec.and_or_distrib_right]
      intro hor
      by_cases hm : m &&& hpMask = 0
      · exact h.hpDescribed fun hx => hor (by rw [hx, hm]; rfl)
      · exact hhp hm }

/-- The error reasons latch neither a receive reason nor HP_MSG (60_exceptions.md R138). -/
theorem Controller.Tidy.latch_err (h : x.Tidy) (m : Reasons) : (x.latch (m &&& errMask)).Tidy := by
  have hrx : m &&& errMask &&& rxMask = 0 := by
    rw [BitVec.and_assoc]
    exact BitVec.and_zero
  have hhp : m &&& errMask &&& hpMask = 0 := by
    rw [BitVec.and_assoc]
    exact BitVec.and_zero
  exact h.latch hrx fun hn => absurd hhp hn

theorem Controller.Tidy.unlatch (h : x.Tidy) (m : Reasons) : (x.unlatch m).Tidy := by
  have hmask : ∀ k : Reasons, x.irqPending &&& ~~~m &&& k = x.irqPending &&& k &&& ~~~m := fun k => by
    rw [BitVec.and_assoc, BitVec.and_comm (~~~m), ← BitVec.and_assoc]
  exact { h with
    pendingReceiveBits := by
      rw [unlatch_irqPending, hmask, h.pendingReceiveBits]
      exact BitVec.zero_and
    hpDescribed := by
      rw [unlatch_irqPending, hmask]
      exact fun hn => h.hpDescribed fun hx => hn (by rw [hx]; exact BitVec.zero_and) }

/-- INIT enables HP_MSG exactly with a receive reason (43_controller.md R106, 60_exceptions.md R136). -/
theorem enablesOf_hpEnable (m : Reasons) :
    decide (enablesOf m &&& hpMask ≠ 0) = decide (enablesOf m &&& rxMask ≠ 0) := by
  revert m
  decide

theorem Controller.Tidy.hwReset (h : x.Tidy) : (x.hwReset p).Tidy where
  rxqCanonical q := by cases q <;> simp [Controller.rxq]
  txqCanonical := by simp
  chanCanonical := h.chanCanonical
  pendingReceiveBits := by simp
  hpEnable := by simp
  hpDescribed := by simp
  rxHandlers := h.rxHandlers
  errHandler := h.errHandler
  hpHandler := h.hpHandler
  pollAlone := by simp

/-- What an extraction puts into the channel is packed from a valid frame. -/
theorem Controller.Tidy.extractOne (h : x.Tidy) (q : QueueId) : (x.extractOne p q).1.Tidy := by
  obtain ⟨ch, n, he, -, hmem, -⟩ := Controller.extractOne_shape p x q
  rw [he]
  have htail : (x.setRxq (x.rxq q).tail q).Tidy := h.setRxq (fun e hm => h.rxqCanonical q e (List.mem_of_mem_tail hm)) q
  have hchan : ∀ c ∈ ch, Elem.Canonical c := by
    intro c hc
    rcases hmem c hc with hold | ⟨e, -, rfl⟩
    · exact h.chanCanonical c hold
    · exact canonical_encodeChan (frameOfElem_valid e)
  exact { htail.setChan hchan with }

theorem Controller.Tidy.storeFrame (h : x.Tidy) (id : CanId) {dlc : Dlc} {data : List Byte}
    (hdata : data.length = dlcToLen dlc) (q : QueueId) : (x.storeFrame p id dlc data q).1.Tidy := by
  rcases Controller.storeFrame_cases p id dlc data q x with ⟨-, he⟩ | ⟨-, he⟩ <;> rw [he]
  · refine h.setRxq (fun e hm => ?_) q
    rcases List.mem_append.mp hm with hold | hnew
    · exact h.rxqCanonical q e hold
    · exact List.mem_singleton.mp hnew ▸ canonical_encodeElem id hdata
  · exact h.markLost q

/-- A high-priority match latches HP_MSG together with a valid descriptor (44_datapath.md R116). -/
theorem Controller.Tidy.stored (h : x.Tidy) (id : CanId) {dlc : Dlc} {data : List Byte}
    (hdata : data.length = dlcToLen dlc) (q : QueueId) (hp : Option Nat) : (x.stored p id dlc data q hp).Tidy := by
  have hs : (x.storeFrame p id dlc data q).1.Tidy := h.storeFrame id hdata q
  cases hp with
  | none => exact hs
  | some k =>
    have hd : { (x.storeFrame p id dlc data q).1 with hpStatus := ⟨true, k, q, (x.storeFrame p id dlc data q).2⟩ }.Tidy :=
      { hs with hpDescribed := fun _ => rfl }
    exact hd.latch (m := hpMask) rfl fun _ => rfl

theorem Controller.Tidy.takeTx (h : x.Tidy) (k : Nat) : (x.takeTx p k).Tidy :=
  { h.setTxq fun e he => h.txqCanonical e (List.mem_of_mem_eraseIdx he) with }

theorem handlerOperand_ne_zero {h g : Handler} (hg : handlerOperand h = some g) : g ≠ 0 := by
  unfold handlerOperand at hg
  split at hg
  · cases hg
  · cases hg
    assumption

end

/-! ### Tidy local results -/

/-- A local result that leaves its instance tidy, if it leaves one. -/
def LocalResult.Tidy : LocalResult → Prop
  | .done y _ => y.Tidy
  | .fatal | .refused _ => True

theorem LocalResult.Tidy.of_done {r : LocalResult} {y : Controller} {evs : List Event} (h : r.Tidy) (hr : r = .done y evs) :
    y.Tidy := by
  subst hr
  exact h

section
variable {p : Params} {x : Controller}

theorem Controller.Tidy.done {evs : List Event} (h : x.Tidy) : (LocalResult.done x evs).Tidy := h

theorem Controller.Tidy.raise (h : x.Tidy) (op : OpCode) (st : Status) : (x.raise op st).Tidy := h

theorem Controller.Tidy.initialise (h : x.Tidy) (bt : BtRegs) (action : BitVec 8) (m : Reasons) :
    (x.initialise p bt action m).Tidy := by
  have hreset : (x.hwReset p).Tidy := h.hwReset
  unfold Controller.initialise
  split
  · exact h.raise _ _
  all_goals
    dsimp only
    split
    · split
      · exact Controller.Tidy.done { hreset with }
      · exact Controller.Tidy.done { hreset with
          hpEnable := enablesOf_hpEnable m
          pollAlone := by simp }
    · exact Controller.Tidy.done { hreset with }

theorem Controller.Tidy.addFilter (h : x.Tidy) (kind action : BitVec 8) (id1 id2 : BitVec 16) :
    (x.addFilter p kind action id1 id2).Tidy := by
  unfold Controller.addFilter
  split
  · exact h.raise _ _
  · exact h.raise _ _
  · split
    · exact h.raise _ _
    · split
      · exact h.raise _ _
      · exact Controller.Tidy.done { h with }

theorem Controller.Tidy.startUp (h : x.Tidy) : x.startUp.Tidy := by
  unfold Controller.startUp
  split
  · exact h.raise _ _
  · exact Controller.Tidy.done { h with }
  · exact h.raise _ _

theorem Controller.Tidy.shutDown (h : x.Tidy) : (x.shutDown p).Tidy := by
  unfold Controller.shutDown
  split
  · exact h.raise _ _
  · exact h.raise _ _
  · exact Controller.Tidy.done { h.hwReset (p := p) with
      rxHandlers := fun q => by cases q <;> exact nofun
      errHandler := nofun
      hpHandler := nofun }

theorem Controller.Tidy.submit (h : x.Tidy) (id : BitVec 16) (length : BitVec 8) (data : BitVec 64) :
    (x.submit p id length data).Tidy := by
  unfold Controller.submit
  split
  · exact h.raise _ _
  · split
    · exact h.raise _ _
    · split
      · exact h.raise _ _
      · rename_i hvalid _
        have hlength : length.toNat ≤ 8 := by
          simp only [validFrame, Bool.not_eq_false, Bool.and_eq_true, decide_eq_true_eq] at hvalid
          exact hvalid.2
        refine Controller.Tidy.done (h.setTxq fun e he => ?_)
        rcases List.mem_append.mp he with hold | hnew
        · exact h.txqCanonical e hold
        · rw [List.mem_singleton.mp hnew]
          exact canonical_encodeElem _ (by rw [lenToDlc, dlcToLen_ofNat hlength, payload_length])

theorem Controller.Tidy.registerRx (h : x.Tidy) (queueId : BitVec 8) (handler : Handler) :
    (x.registerRx queueId handler).Tidy := by
  unfold Controller.registerRx
  split
  · exact h.raise _ _
  · exact (h.setCbRx (fun _ => handlerOperand_ne_zero) _).done

/-- A poll is held only with ticks left and on a queue whose interrupt is off (44_datapath.md R118). -/
theorem Controller.Tidy.pollReceive (h : x.Tidy) (queueId : BitVec 8) (timeout : BitVec 32) :
    (x.pollReceive p queueId timeout).Tidy := by
  unfold Controller.pollReceive
  split
  · exact h.raise _ _
  · split
    · exact h.raise _ _
    · split
      · exact h.raise _ _
      · split
        · trivial
        · rename_i q _ _ hoff
          split
          · exact (h.extractOne q).done
          · split
            · exact h.raise _ _
            · rename_i htime
              refine Controller.Tidy.done (h.setPoll ?_)
              rintro held ⟨⟩
              exact ⟨Nat.pos_of_ne_zero fun h0 => htime (BitVec.eq_of_toNat_eq h0), Bool.eq_false_iff.mpr hoff⟩

theorem Controller.Tidy.acceptFrame (h : x.Tidy) (id : CanId) {dlc : Dlc} {data : List Byte}
    (hdata : data.length = dlcToLen dlc) : (x.acceptFrame p id dlc data).Tidy := by
  rcases Controller.acceptFrame_cases p id dlc data x with ⟨-, he⟩ | ⟨_, -, he⟩ | ⟨q, hp, slot, -, he⟩ <;> rw [he]
  · trivial
  · exact h.done
  · exact (h.stored id hdata q _).done

theorem Controller.Tidy.transmit (h : x.Tidy) (inst : InstId) : (x.transmit p inst).Tidy := by
  unfold Controller.transmit
  dsimp only
  split
  · exact h.done
  · split
    · exact (h.takeTx _).acceptFrame _ (payload_length _ _)
    · exact (h.takeTx _).done

theorem Controller.Tidy.takeOldest (h : x.Tidy) : x.takeOldest.Tidy := by
  unfold Controller.takeOldest
  split
  · exact Controller.Tidy.done { h with }
  · rename_i c rest hchan
    have hrest : ∀ e ∈ rest, Elem.Canonical e := fun e he => h.chanCanonical e (by simp [hchan, he])
    exact Controller.Tidy.done { h.setChan hrest with }

theorem Controller.Tidy.dequeue (h : x.Tidy) : x.dequeue.Tidy := by
  unfold Controller.dequeue
  split
  · trivial
  · exact h.takeOldest

theorem Controller.Tidy.dispatchBlock (h : x.Tidy) (m : Reasons) (c : ReasonClass) : (x.dispatchBlock p m c).1.Tidy := by
  cases c <;> unfold Controller.dispatchBlock <;> dsimp only <;> split
  case rxq0.isTrue => exact h.extractOne _
  case rxq1.isTrue => exact h.extractOne _
  case err.isTrue => exact h.unlatch _
  case hp.isTrue => exact h.unlatch _
  all_goals exact h

theorem Controller.Tidy.dispatchBlocks (m : Reasons) (cs : List ReasonClass) :
    ∀ {x : Controller}, x.Tidy → (Controller.dispatchBlocks p m cs x).1.Tidy := by
  induction cs with
  | nil => exact id
  | cons c cs ih => exact fun h => ih (h.dispatchBlock m c)

theorem Controller.Tidy.finishPoll (h : x.Tidy) (q : QueueId) : (x.finishPoll p q).1.Tidy :=
  (h.extractOne q).setPoll nofun

theorem Controller.Tidy.tick (h : x.Tidy) : (x.tick p).1.Tidy := by
  unfold Controller.tick
  split
  · exact h
  · rename_i held hpoll
    obtain ⟨-, hoff⟩ := h.pollAlone held hpoll
    split
    · refine h.setPoll ?_
      rintro _ ⟨⟩
      exact ⟨by dsimp only; omega, hoff⟩
    · split
      · exact h.finishPoll _
      · exact h.setPoll nofun

/-- Whatever the step, what it does to a tidy instance is tidy. -/
theorem Controller.Tidy.localBody (h : x.Tidy) (i : Instr) : (localBody p i x).Tidy := by
  cases i with
  | init => exact h.initialise _ _ _
  | addFilter => exact h.addFilter _ _ _ _
  | start => exact h.startUp
  | send => exact h.submit _ _ _
  | stop => exact h.shutDown
  | regRxCb => exact h.registerRx _ _
  | regErrCb => exact Controller.Tidy.done { h with errHandler := fun _ => handlerOperand_ne_zero }
  | regHpCb => exact Controller.Tidy.done { h with hpHandler := fun _ => handlerOperand_ne_zero }
  | pollRx => exact h.pollReceive _ _
  | busRx =>
    dsimp only [Machine.localBody]
    split
    · split
      · exact h.done
      · exact h.acceptFrame _ (payload_length _ _)
    · trivial
  | txXmit inst =>
    dsimp only [Machine.localBody]
    split
    · exact h.transmit inst
    · exact h.done
  | irqDispatch =>
    dsimp only [Machine.localBody]
    split
    · exact (Controller.Tidy.dispatchBlocks _ _ h).done
    · exact h.done
  | busStatus =>
    dsimp only [Machine.localBody]
    split
    · split
      · exact (h.latch_err _).done
      · exact h.done
    · trivial
  | tick => exact h.done
  | chanDeq => exact h.dequeue

end

/-- Settles O12: every way a step can change an instance leaves a tidy one tidy. The invariants of R34 are not needed. -/
theorem stepKeepsTidiness : Obligations.StepKeepsTidiness := by
  unfold Obligations.StepKeepsTidiness
  intro s t _ hs hstep
  obtain ⟨-, hlen, hrel⟩ := step_ctrl_rel (R := fun _ _ y => y.Tidy) hs
    (fun i x _ _ hx hy => ((hs x hx).localBody i).of_done hy) (fun x _ _ hx hy => (hs x hx).takeOldest.of_done hy)
    (fun x held hx _ => (hs x hx).finishPoll held.queue) (fun x hx => (hs x hx).tick) hstep
  intro y hy
  obtain ⟨k, hk, rfl⟩ := List.getElem_of_mem hy
  exact hrel k _ _ (List.getElem?_eq_getElem (hlen ▸ hk)) (List.getElem?_eq_getElem hk)

end Sys2Proof.Machine

/-! PROOFS of the family 40_frame_codec.md: the length codes, the layout of an element, and elements, channel entries and serial
bodies that give back what was packed into them. -/

namespace Sys2Proof.Machine

/-! ### Length codes (40_frame_codec.md R76, R77) -/

theorem dlcToLen_eq_min (d : Dlc) : dlcToLen d = min d.toNat 8 := by
  unfold dlcToLen
  split <;> omega

/-- On the codes of 0 to 8 bytes, `DlcToLen` undoes `LenToDlc` (R77). -/
theorem dlcToLen_lenToDlc {n : Nat} (h : n ≤ 8) : dlcToLen (lenToDlc n) = n := dlcToLen_ofNat h

theorem lenToDlc_toNat {n : Nat} (h : n ≤ 8) : (lenToDlc n).toNat = n := by
  rw [lenToDlc, BitVec.toNat_ofNat, Nat.mod_eq_of_lt (by omega)]

/-- A code is normalised to 8 unless it is at most 8 (R77). -/
theorem lenToDlc_dlcToLen_iff (d : Dlc) : lenToDlc (dlcToLen d) = d ↔ d.toNat ≤ 8 := by
  constructor
  · intro h
    exact h ▸ lenToDlc_le (dlcToLen_le d)
  · intro h
    rw [dlcToLen, if_pos h, lenToDlc, BitVec.ofNat_toNat, BitVec.setWidth_eq]

/-- Settles O26: `DlcToLen` is the minimum of the code and 8, and `LenToDlc` of 0 to 8 is the code itself. -/
theorem lengthCodes : Obligations.LengthCodes := by
  unfold Obligations.LengthCodes
  refine ⟨fun d => ⟨fun h => ?_, fun h => ?_⟩, fun n h => ⟨lenToDlc_toNat h, dlcToLen_lenToDlc h⟩, lenToDlc_dlcToLen_iff⟩
  · rw [dlcToLen_eq_min, min_eq_left h]
  · rw [dlcToLen_eq_min, min_eq_right h.le]

/-! ### The layout of an element (40_frame_codec.md R78) -/

theorem encodeElem_reserved_low (id : CanId) (dlc : Dlc) (data : List Byte) :
    (encodeElem id dlc data).extractLsb' 11 5 = 0#5 := by
  unfold encodeElem
  rw [BitVec.extractLsb'_append_eq_of_le (by decide)]
  exact BitVec.extractLsb'_append_eq_right

theorem encodeElem_reserved_high (id : CanId) (dlc : Dlc) (data : List Byte) :
    (encodeElem id dlc data).extractLsb' 20 12 = 0#12 := by
  unfold encodeElem
  iterate 3 rw [BitVec.extractLsb'_append_eq_of_le (by decide)]
  exact BitVec.extractLsb'_append_eq_right

/-- Byte `k` of an element is byte `k` of its data field (30_encoding.md R57). -/
theorem extractLsb'_eq_elemData_byte (e : Elem) {k : Nat} (hk : k < 8) :
    e.extractLsb' (32 + 8 * k) 8 = (elemData e).extractLsb' (8 * k) 8 := by
  ext i hi
  have hroom : 8 * k + i < 64 := by omega
  simp [elemData, hroom, Nat.add_assoc]

theorem elemData_encodeElem_of_length (id : CanId) {dlc : Dlc} {data : List Byte} (h : data.length = dlcToLen dlc) :
    elemData (encodeElem id dlc data) = packBytes data := by
  rw [elemData_encodeElem, List.take_of_length_le h.le]

/-- Settles O27: the fields one by one; the room beyond the payload is what `getD` gives beyond the end of the list. -/
theorem elementLayout : Obligations.ElementLayout := by
  unfold Obligations.ElementLayout
  refine fun id dlc data h => ⟨elemId_encodeElem id dlc data, encodeElem_reserved_low id dlc data,
    elemDlc_encodeElem id dlc data, encodeElem_reserved_high id dlc data, fun k hk => ?_⟩
  rw [extractLsb'_eq_elemData_byte _ hk, elemData_encodeElem_of_length id h, packBytes_byte data k hk]
  split
  · rfl
  · exact List.getD_eq_default _ _ (by omega)

/-! ### Elements and channel entries, packed and unpacked (40_frame_codec.md R79, R80, R82) -/

/-- The round trip of R79. -/
theorem decodeElem_encodeElem (id : CanId) {dlc : Dlc} {data : List Byte} (h : data.length = dlcToLen dlc) :
    decodeElem (encodeElem id dlc data) = (id, dlc, data) := by
  have hpayload : payload (packBytes data) (dlcToLen dlc) = data := by
    rw [← h]
    exact payload_packBytes (h ▸ dlcToLen_le dlc)
  rw [decodeElem, elemId_encodeElem, elemDlc_encodeElem, elemData_encodeElem_of_length id h, hpayload]

/-- The frame of an element is what the element decodes to, with the byte count for the code (R80). -/
theorem frameOfElem_eq (e : Elem) :
    frameOfElem e = ⟨(decodeElem e).1, dlcToLen (decodeElem e).2.1, (decodeElem e).2.2⟩ := rfl

/-- The round trip of R80. -/
theorem frameOfElem_encodeElem (id : CanId) {len : Nat} {data : List Byte} (hlen : len ≤ 8) (h : data.length = len) :
    frameOfElem (encodeElem id (lenToDlc len) data) = ⟨id, len, data⟩ := by
  rw [frameOfElem_eq, decodeElem_encodeElem id (by rw [h, dlcToLen_lenToDlc hlen]), dlcToLen_lenToDlc hlen]

/-- A channel entry is read as an element is: its length field, cut to 8, is `DlcToLen` of it (R82). -/
theorem decodeChan_eq_frameOfElem (c : Elem) : decodeChan c = frameOfElem c := by
  rw [frameOfElem, dlcToLen_eq_min]
  rfl

/-- The round trip of R82. -/
theorem decodeChan_encodeChan {f : Frame} (h : f.Valid) : decodeChan (encodeChan f) = f := by
  obtain ⟨hlen, hdata⟩ := h
  rw [decodeChan_eq_frameOfElem]
  exact frameOfElem_encodeElem f.id hlen hdata

/-- Settles O28: a channel entry is read as an element is, so both round trips are `DecodeElem`'s. -/
theorem elementRoundTrip : Obligations.ElementRoundTrip := by
  unfold Obligations.ElementRoundTrip
  exact ⟨fun id _ _ h => decodeElem_encodeElem id h, fun id _ _ hlen h => frameOfElem_encodeElem id hlen h,
    fun _ h => decodeChan_encodeChan h, fun e => ⟨frameOfElem_valid e, decodeChan_valid e⟩⟩

/-! ### The serial body (40_frame_codec.md R83) -/

@[simp] theorem bitsMsbFirst_length {n : Nat} (v : BitVec n) : (bitsMsbFirst v).length = n := by
  simp [bitsMsbFirst]

theorem natOfBits_concat (l : List Bool) (b : Bool) : natOfBits (l ++ [b]) = 2 * natOfBits l + b.toNat := by
  simp [natOfBits]

/-- The `n` low bits of a number, most significant first, are worth the number modulo `2 ^ n`: the last bit is the parity, and the
bits before it are those of half the number. -/
theorem natOfBits_testBits (n : Nat) : ∀ m : Nat,
    natOfBits ((List.range n).map fun k => m.testBit (n - 1 - k)) = m % 2 ^ n := by
  induction n with
  | zero => intro m; simp [natOfBits, Nat.mod_one]
  | succ n ih =>
    intro m
    have hfront : ((List.range n).map fun k => m.testBit (n + 1 - 1 - k)) =
        (List.range n).map fun k => (m / 2).testBit (n - 1 - k) := by
      refine List.map_congr_left fun k hk => ?_
      have hk := List.mem_range.mp hk
      rw [← Nat.testBit_succ]
      congr 1
      omega
    have hparity : (m.testBit (n + 1 - 1 - n)).toNat = m % 2 := by
      rw [Nat.toNat_testBit, Nat.add_sub_cancel, Nat.sub_self, Nat.pow_zero, Nat.div_one]
    rw [List.range_succ, List.map_append, List.map_singleton, natOfBits_concat, hfront, ih, hparity, Nat.pow_succ',
      Nat.mod_mul, Nat.add_comm]

theorem natOfBits_bitsMsbFirst {n : Nat} (v : BitVec n) : natOfBits (bitsMsbFirst v) = v.toNat :=
  (natOfBits_testBits n v.toNat).trans (Nat.mod_eq_of_lt v.isLt)

/-- Sent most significant bit first, a vector is read back. -/
@[simp] theorem ofNat_natOfBits_bitsMsbFirst {n : Nat} (v : BitVec n) : BitVec.ofNat n (natOfBits (bitsMsbFirst v)) = v := by
  rw [natOfBits_bitsMsbFirst, BitVec.ofNat_toNat, BitVec.setWidth_eq]

theorem flatMap_bitsMsbFirst_length (data : List Byte) : (data.flatMap bitsMsbFirst).length = 8 * data.length := by
  simp [List.length_flatMap, Nat.mul_comm]

@[simp] theorem bytesOfBits_length (n : Nat) : ∀ bits : List Bool, (bytesOfBits n bits).length = n := by
  induction n with
  | zero => intro bits; rfl
  | succ n ih => intro bits; rw [bytesOfBits, List.length_cons, ih]

/-- The data bytes sent one after the other are read back. -/
theorem bytesOfBits_flatMap (data : List Byte) : bytesOfBits data.length (data.flatMap bitsMsbFirst) = data := by
  induction data with
  | nil => rfl
  | cons b bs ih =>
    have hlen : (bitsMsbFirst b).length = 8 := bitsMsbFirst_length b
    rw [List.length_cons, bytesOfBits, List.flatMap_cons, List.take_left' hlen, List.drop_left' hlen, ih,
      ofNat_natOfBits_bitsMsbFirst]

theorem serialBody_eq (id : CanId) {dlc : Dlc} {data : List Byte} (h : data.length = dlcToLen dlc) :
    serialBody id dlc data =
      bitsMsbFirst id ++ ([false, false, false] ++ (bitsMsbFirst dlc ++ data.flatMap bitsMsbFirst)) := by
  rw [serialBody, List.take_of_length_le h.le, List.append_assoc, List.append_assoc]

theorem serialBody_length (id : CanId) {dlc : Dlc} {data : List Byte} (h : data.length = dlcToLen dlc) :
    (serialBody id dlc data).length = 18 + 8 * dlcToLen dlc := by
  rw [serialBody_eq id h]
  simp only [List.length_append, bitsMsbFirst_length, flatMap_bitsMsbFirst_length, List.length_cons, List.length_nil, h]
  omega

/-- The fields of a serial body, each where the parser looks for it. -/
theorem serialBody_fields (id : CanId) {dlc : Dlc} {data : List Byte} (h : data.length = dlcToLen dlc) :
    (serialBody id dlc data).take 11 = bitsMsbFirst id ∧
      (serialBody id dlc data).getD 11 false = false ∧ (serialBody id dlc data).getD 12 false = false ∧
      ((serialBody id dlc data).drop 14).take 4 = bitsMsbFirst dlc ∧
      (serialBody id dlc data).drop 18 = data.flatMap bitsMsbFirst := by
  have hid : (bitsMsbFirst id).length = 11 := bitsMsbFirst_length id
  have hdlc : (bitsMsbFirst dlc).length = 4 := bitsMsbFirst_length dlc
  rw [serialBody_eq id h]
  refine ⟨List.take_left' hid, ?_, ?_, ?_, ?_⟩
  · rw [List.getD_append_right _ _ _ _ (by omega), hid]
    rfl
  · rw [List.getD_append_right _ _ _ _ (by omega), hid]
    rfl
  · rw [← List.append_assoc, List.drop_left' (by simp), List.take_left' hdlc]
  · rw [← List.append_assoc, ← List.append_assoc, List.drop_left' (by simp)]

/-- The round trip of R83. -/
theorem parseSerialBody_serialBody (id : CanId) {dlc : Dlc} {data : List Byte} (h : data.length = dlcToLen dlc) :
    parseSerialBody (serialBody id dlc data) = some (id, dlc, data) := by
  obtain ⟨hid, hrtr, hide, hdlc, hdata⟩ := serialBody_fields id h
  have hbytes : bytesOfBits (dlcToLen dlc) (data.flatMap bitsMsbFirst) = data := h ▸ bytesOfBits_flatMap data
  simp only [parseSerialBody, hid, hrtr, hide, hdlc, hdata, ofNat_natOfBits_bitsMsbFirst, serialBody_length id h, hbytes,
    Bool.or_self, Bool.false_eq_true, if_false, if_true]

/-- A remote frame or an extended identifier is refused (R83). -/
theorem parseSerialBody_of_rtr_or_ide {bits : List Bool} (h : bits.getD 11 false = true ∨ bits.getD 12 false = true) :
    parseSerialBody bits = none :=
  if_pos (Bool.or_eq_true_iff.mpr h)

/-- What parses has as many bits and bytes as its code names (R83). -/
theorem lengths_of_parseSerialBody {bits : List Bool} {id : CanId} {dlc : Dlc} {data : List Byte}
    (h : parseSerialBody bits = some (id, dlc, data)) :
    bits.length = 18 + 8 * dlcToLen dlc ∧ data.length = dlcToLen dlc := by
  simp only [parseSerialBody] at h
  split at h
  · cases h
  · split at h
    · next hlen =>
      cases h
      exact ⟨hlen, bytesOfBits_length _ _⟩
    · cases h

/-- Settles O29: the parser cuts a serial body where its fields meet, and each field is read back as it was sent. -/
theorem serialBodyRoundTrip : Obligations.SerialBodyRoundTrip := by
  unfold Obligations.SerialBodyRoundTrip
  exact ⟨fun id _ _ h => ⟨serialBody_length id h, parseSerialBody_serialBody id h⟩,
    fun _ h => parseSerialBody_of_rtr_or_ide h, fun _ _ _ _ h => lengths_of_parseSerialBody h⟩

end Sys2Proof.Machine

/-! PROOFS of the family 41_bit_timing.md: the ranges of a tuple, the bit time with the bitrate, and the contract of the reference
quantizer. -/

namespace Sys2Proof.Machine

/-! ### The ranges of a tuple (41_bit_timing.md R89) -/

theorem btLegal_iff {p : Params} {bt : BitTiming} : btLegal p bt = true ↔
    (1 ≤ bt.prescaler ∧ bt.prescaler ≤ p.prescMax) ∧ (1 ≤ bt.ts1 ∧ bt.ts1 ≤ p.ts1Max) ∧
      (1 ≤ bt.ts2 ∧ bt.ts2 ≤ p.ts2Max) ∧ (1 ≤ bt.sjw ∧ bt.sjw ≤ p.sjwMax) := by
  simp only [btLegal, Bool.and_eq_true, decide_eq_true_eq, and_assoc]

/-- Settles O31: each of the four tests of `btLegal` is one range. -/
theorem btLegalRanges : Obligations.BtLegalRanges := by
  unfold Obligations.BtLegalRanges
  exact fun _ _ => btLegal_iff

/-! ### Bit time, bitrate and derivability (41_bit_timing.md R86 to R88) -/

section
variable {bt : BitTiming} {clockHz rate : Nat}

theorem bitCycles_ne_zero (h : 0 < bt.prescaler) : bitCycles bt ≠ 0 :=
  Nat.mul_ne_zero h.ne' (by simp [quantaPerBit])

theorem bitTime_mul_clock (h : 0 < clockHz) : bitTime bt clockHz * (clockHz : Rat) = (bitCycles bt : Rat) :=
  div_mul_cancel₀ _ (Nat.cast_ne_zero.mpr h.ne')

theorem bitTime_ne_zero (hc : 0 < clockHz) (hp : 0 < bt.prescaler) : bitTime bt clockHz ≠ 0 :=
  div_ne_zero (Nat.cast_ne_zero.mpr (bitCycles_ne_zero hp)) (Nat.cast_ne_zero.mpr hc.ne')

/-- R87: the bitrate is the reciprocal of the bit time. -/
theorem bitrate_eq_inv_bitTime : bitrate bt clockHz = (bitTime bt clockHz)⁻¹ :=
  (inv_div _ _).symm

theorem derivable_iff : derivable bt clockHz rate = true ↔ rate * bitCycles bt = clockHz :=
  decide_eq_true_iff

theorem derivable_iff_bitrate_eq (h : 0 < bt.prescaler) :
    derivable bt clockHz rate = true ↔ bitrate bt clockHz = (rate : Rat) := by
  rw [derivable_iff, bitrate, div_eq_iff (Nat.cast_ne_zero.mpr (bitCycles_ne_zero h)), eq_comm]
  norm_cast

end

/-- Settles O32: the bitrate is the inverse of the bit time, which is not 0, and the rest clears a denominator that is not 0. -/
theorem bitrateAndDerivability : Obligations.BitrateAndDerivability := by
  unfold Obligations.BitrateAndDerivability
  intro bt clockHz rate hc hp
  refine ⟨bitTime_mul_clock hc, ?_, derivable_iff_bitrate_eq hp, derivable_iff⟩
  rw [bitrate_eq_inv_bitTime, mul_inv_cancel₀ (bitTime_ne_zero hc hp)]

/-! ### The reference quantizer (41_bit_timing.md R93, R94) -/

/-- The segments R93 cuts `nq` quanta into: both at least 1, and with the leading quantum they fill the bit. -/
theorem segments_of_quanta {nq : Nat} (h : 3 ≤ nq) :
    1 ≤ 7 * nq / 8 - 1 ∧ 1 ≤ nq - 1 - (7 * nq / 8 - 1) ∧ 1 + (7 * nq / 8 - 1) + (nq - 1 - (7 * nq / 8 - 1)) = nq := by
  omega

/-- What the search of R93 answers: a prescaler among those it tried, segments in range, and a bit whose cycles times the rate are
the clock. -/
theorem quantizeFrom_eq_some {p : Params} {clockHz rate : Nat} {bt : BitTiming} (fuel : Nat) : ∀ presc : Nat,
    quantizeFrom p clockHz rate fuel presc = some bt →
      (presc ≤ bt.prescaler ∧ bt.prescaler < presc + fuel) ∧ (1 ≤ bt.ts1 ∧ bt.ts1 ≤ p.ts1Max) ∧
        (1 ≤ bt.ts2 ∧ bt.ts2 ≤ p.ts2Max) ∧ bt.sjw = min bt.ts2 p.sjwMax ∧ rate * bitCycles bt = clockHz := by
  induction fuel with
  | zero => intro presc h; cases h
  | succ fuel ih =>
    intro presc h
    rw [quantizeFrom] at h
    split at h
    · -- the clock does not divide: a later prescaler answers
      obtain ⟨hpresc, hrest⟩ := ih (presc + 1) h
      exact ⟨by omega, hrest⟩
    · next hdvd =>
      dsimp only at h
      split at h
      · cases h
      · next hnq =>
        split at h
        · -- a segment is too long: a later prescaler answers
          obtain ⟨hpresc, hrest⟩ := ih (presc + 1) h
          exact ⟨by omega, hrest⟩
        · next hrange =>
          cases h
          obtain ⟨hts1, hts2, hsum⟩ := segments_of_quanta (Nat.le_of_not_lt hnq)
          obtain ⟨hts1Max, hts2Max⟩ := not_or.mp hrange
          have hclock : presc * rate * (clockHz / (presc * rate)) = clockHz :=
            Nat.mul_div_cancel' (Nat.dvd_of_mod_eq_zero (not_not.mp hdvd))
          refine ⟨⟨Nat.le_refl _, Nat.lt_add_of_pos_right fuel.succ_pos⟩, ⟨hts1, Nat.le_of_not_lt hts1Max⟩,
            ⟨hts2, Nat.le_of_not_lt hts2Max⟩, rfl, ?_⟩
          rw [bitCycles, quantaPerBit, hsum, ← Nat.mul_assoc, Nat.mul_comm rate, hclock]

/-- Settles O33: the search tries the prescalers 1 to PRESC_MAX, and its `sjw` is at least 1 since `ts2` and SJW_MAX are. -/
theorem quantizerContract : Obligations.QuantizerContract := by
  unfold Obligations.QuantizerContract
  intro p clockHz rate bt _ _ hsjwMax h
  obtain ⟨hpresc, hts1, hts2, hsjw, hclock⟩ := quantizeFrom_eq_some p.prescMax 1 h
  exact ⟨btLegal_iff.mpr ⟨by omega, hts1, hts2, by omega⟩, derivable_iff.mpr hclock⟩

end Sys2Proof.Machine

/-! PROOFS of the family 42_filter.md: the match predicates, the first matching slot, the routing of a received frame, and ADD_FILTER
up to the exhaustion of the table. -/

namespace Sys2Proof.Machine

/-! ### The match predicates (42_filter.md R95 to R98) -/

theorem matchRange_iff {id1 id2 id : CanId} :
    matchRange id1 id2 id = true ↔ id1.toNat ≤ id.toNat ∧ id.toNat ≤ id2.toNat := by
  rw [matchRange, Bool.and_eq_true, decide_eq_true_iff, decide_eq_true_iff]

theorem matchDual_iff {id1 id2 id : CanId} : matchDual id1 id2 id = true ↔ id = id1 ∨ id = id2 := by
  rw [matchDual, Bool.or_eq_true, decide_eq_true_iff, decide_eq_true_iff]

theorem matchMask_iff {id1 id2 id : CanId} : matchMask id1 id2 id = true ↔ id &&& id2 = id1 &&& id2 :=
  decide_eq_true_iff

/-- Two vectors agree under a mask exactly when they agree in each bit where the mask has a 1. -/
theorem and_eq_and_iff_getLsbD {n : Nat} {u v m : BitVec n} :
    u &&& m = v &&& m ↔ ∀ b, b < n → m.getLsbD b = true → u.getLsbD b = v.getLsbD b := by
  constructor
  · intro h b _ hm
    have hbit := congrArg (fun w : BitVec n => w.getLsbD b) h
    simpa only [BitVec.getLsbD_and, hm, Bool.and_true] using hbit
  · intro h
    refine BitVec.eq_of_getLsbD_eq fun b hb => ?_
    rw [BitVec.getLsbD_and, BitVec.getLsbD_and]
    cases hm : m.getLsbD b with
    | false => rw [Bool.and_false, Bool.and_false]
    | true => rw [h b hb hm]

/-- Settles O34: the kind selects the predicate (R98), and agreeing under a mask is agreeing bit by bit. -/
theorem filterMatchPredicates : Obligations.FilterMatchPredicates := by
  unfold Obligations.FilterMatchPredicates
  intro r id
  refine ⟨fun hkind => ?_, fun hkind => ?_, fun hkind => ?_⟩ <;> simp only [FilterRule.matchesId, hkind]
  · exact matchRange_iff
  · exact matchDual_iff
  · exact matchMask_iff.trans and_eq_and_iff_getLsbD

/-! ### The first matching slot (42_filter.md R99) -/

theorem scanFrom_eq_hit {id : CanId} {r : FilterRule} {l : List (Option FilterRule)} :
    ∀ {n k : Nat}, l[k]? = some (some r) → r.matchesId id = true →
      (∀ j, j < k → ∃ r', l[j]? = some (some r') ∧ r'.matchesId id = false) → scanFrom id n l = .hit (n + k) r := by
  induction l with
  | nil => intro n k hk; simp at hk
  | cons o rest ih =>
    intro n k hk hr hbefore
    cases k with
    | zero =>
      cases Option.some.inj hk
      rw [scanFrom, if_pos hr]
      rfl
    | succ k =>
      obtain ⟨r', ho, hr'⟩ := hbefore 0 k.succ_pos
      cases Option.some.inj ho
      rw [scanFrom, if_neg (by simp [hr']), ih hk hr fun j hj => hbefore (j + 1) (Nat.succ_lt_succ hj),
        Nat.add_assoc, Nat.add_comm 1]

/-- What follows a hit does not change it. -/
theorem scanFrom_append_of_hit {id : CanId} {k : Nat} {r : FilterRule} {l : List (Option FilterRule)}
    (l' : List (Option FilterRule)) : ∀ {n : Nat}, scanFrom id n l = .hit k r → scanFrom id n (l ++ l') = .hit k r := by
  induction l with
  | nil => intro n h; cases h
  | cons o rest ih =>
    intro n h
    cases o with
    | none => cases h
    | some r' =>
      rw [List.cons_append, scanFrom]
      rw [scanFrom] at h
      split at h
      · next hr' => rw [if_pos hr', h]
      · next hr' => rw [if_neg hr', ih h]

section
variable {x : Controller} {id : CanId}

theorem Controller.classify_of_scan_hit {k : Nat} {r : FilterRule}
    (h : scanFrom id 0 (x.filters.take x.nextSlot) = .hit k r) : x.classify id = .decided r.action.verdict (some k) := by
  rw [Controller.classify, h]

theorem Controller.classify_of_firstMatch {k : Nat} {r : FilterRule} (hk : k < x.nextSlot)
    (hr : x.filters[k]? = some (some r)) (hmatch : r.matchesId id = true)
    (hbefore : ∀ j, j < k → ∃ r', x.filters[j]? = some (some r') ∧ r'.matchesId id = false) :
    x.classify id = .decided r.action.verdict (some k) := by
  refine Controller.classify_of_scan_hit ((scanFrom_eq_hit (k := k) ?_ hmatch fun j hj => ?_).trans (by rw [Nat.zero_add]))
  · rw [List.getElem?_take_of_lt hk, hr]
  · rw [List.getElem?_take_of_lt (hj.trans hk)]
    exact hbefore j hj

theorem Controller.classify_of_noMatch {a : DefaultAction} (ha : x.defaultAction = some a)
    (hnone : ∀ j, j < x.nextSlot → ∃ r, x.filters[j]? = some (some r) ∧ r.matchesId id = false) :
    x.classify id = .decided a.verdict none := by
  have hscan : scanFrom id 0 (x.filters.take x.nextSlot) = .noMatch := by
    refine scanFrom_eq_noMatch fun o ho => ?_
    obtain ⟨j, hj⟩ := List.mem_iff_getElem?.mp ho
    have hslot : j < x.nextSlot :=
      (List.getElem?_eq_some_iff.mp hj).1.trans_le (List.length_take_le _ _)
    obtain ⟨r, hr, hmatch⟩ := hnone j hslot
    rw [List.getElem?_take_of_lt hslot, hr] at hj
    exact ⟨r, (Option.some.inj hj).symm, hmatch⟩
  rw [Controller.classify, hscan, ha]

/-- A verdict that names a slot comes from the scan, since the default action names none. -/
theorem Controller.scan_hit_of_classify {v : Verdict} {k : Nat} (h : x.classify id = .decided v (some k)) :
    ∃ r, scanFrom id 0 (x.filters.take x.nextSlot) = .hit k r ∧ v = r.action.verdict := by
  unfold Controller.classify at h
  split at h
  · next hscan =>
    cases h
    exact ⟨_, hscan, rfl⟩
  · cases h
  · split at h <;> cases h

end

/-- Settles O35: the verdict is the first matching rule's or the default action's, action by action. -/
theorem classifyFirstMatch : Obligations.ClassifyFirstMatch := by
  unfold Obligations.ClassifyFirstMatch
  refine fun x id => ⟨fun k r hk hr hmatch hbefore => ?_, fun hnone => ?_⟩
  · have hverdict := Controller.classify_of_firstMatch hk hr hmatch hbefore
    and_intros
    all_goals
      intro haction
      rw [haction] at hverdict
      exact hverdict
  · exact ⟨fun ha => Controller.classify_of_noMatch ha hnone, fun ha => Controller.classify_of_noMatch ha hnone,
      fun ha => Controller.classify_of_noMatch ha hnone⟩

/-! ### A rule in the next slot (42_filter.md R100, R101) -/

/-- Rule `r` is written into the next slot and `next_slot` is raised (R101). -/
def Controller.putRule (x : Controller) (r : FilterRule) : Controller :=
  { x with filters := x.filters.set x.nextSlot (some r), nextSlot := x.nextSlot + 1 }

@[simp] theorem Controller.putRule_nextSlot (x : Controller) (r : FilterRule) :
    (x.putRule r).nextSlot = x.nextSlot + 1 := rfl

@[simp] theorem Controller.putRule_filters_length (x : Controller) (r : FilterRule) :
    (x.putRule r).filters.length = x.filters.length := List.length_set

/-- The table in use grows by the rule at its end. -/
theorem Controller.putRule_take_nextSlot {x : Controller} (h : x.nextSlot < x.filters.length) (r : FilterRule) :
    (x.putRule r).filters.take (x.putRule r).nextSlot = x.filters.take x.nextSlot ++ [some r] := by
  simp only [Controller.putRule]
  rw [List.take_add_one, List.getElem?_set_self h, List.take_set_of_le (Nat.le_refl _)]
  rfl

/-- Settles O36: the appended rule comes after the slot at which the scan ends. -/
theorem appendingKeepsEarlierMatches : Obligations.AppendingKeepsEarlierMatches := by
  unfold Obligations.AppendingKeepsEarlierMatches
  intro x r id v k hroom h
  obtain ⟨r', hscan, rfl⟩ := Controller.scan_hit_of_classify h
  refine Controller.classify_of_scan_hit (x := x.putRule r) ?_
  rw [Controller.putRule_take_nextSlot hroom]
  exact scanFrom_append_of_hit _ hscan

/-! ### Routing a received frame (42_filter.md R100 (a), 44_datapath.md R115, R116) -/

section
variable {s : State} {inst : InstId} {x : Controller} {id : BitVec 16} {dlc : BitVec 8} {data : BitVec 64}

/-- A data frame in its format that reaches a Running instance from the bus goes through the instance's filter (R115). -/
theorem exec_busRx_of_running (hx : s.ctrl? inst = some x) (hrun : x.cstate = .running)
    (hbus : isLoopback s.params inst = false) (hid : id.toNat ≤ 0x7FF) (hdlc : dlc.toNat ≤ 15) :
    exec (.busRx inst id dlc data 0) s = s.settle inst (x.acceptFrame s.params (id.setWidth 11) (dlc.setWidth 4)
      (payload data (dlcToLen (dlc.setWidth 4)))) := by
  rw [exec_known rfl hx]
  simp [localBody, busRxFormat, hid, hdlc, hrun, hbus]

theorem Controller.acceptFrame_of_discard {p : Params} {i : CanId} {code : Dlc} {bytes : List Byte} {slot : Option Nat}
    (h : x.classify i = .decided .discard slot) : x.acceptFrame p i code bytes = .done x [] := by
  rw [Controller.acceptFrame, h]

/-- A frame with a verdict of normal priority joins its queue when there is room (R116). -/
theorem Controller.acceptFrame_of_store {p : Params} {i : CanId} {code : Dlc} {bytes : List Byte} {q : QueueId}
    {slot : Option Nat} (h : x.classify i = .decided (.store q false) slot) (hroom : (x.rxq q).length < p.rxqDepth) :
    x.acceptFrame p i code bytes = .done (x.setRxq (x.rxq q ++ [encodeElem i code bytes]) q) [] := by
  rcases Controller.storeFrame_cases p i code bytes q x with ⟨-, hstore⟩ | ⟨hfull, -⟩
  · simp only [Controller.acceptFrame, h, hstore]
  · exact absurd hroom (Nat.not_lt.mpr hfull)

theorem dlcToLen_setWidth (hdlc : dlc.toNat ≤ 15) : dlcToLen (dlc.setWidth 4) = min dlc.toNat 8 := by
  rw [dlcToLen_eq_min, BitVec.toNat_setWidth, Nat.mod_eq_of_lt (by omega)]

/-- The element made of a received frame is read back as that frame, with the byte count for the code (R76, R80). -/
theorem frameOfElem_received (hdlc : dlc.toNat ≤ 15) (i : CanId) :
    frameOfElem (encodeElem i (dlc.setWidth 4) (payload data (dlcToLen (dlc.setWidth 4)))) =
      ⟨i, min dlc.toNat 8, payload data (min dlc.toNat 8)⟩ := by
  rw [frameOfElem_eq, decodeElem_encodeElem i (payload_length _ _), dlcToLen_setWidth hdlc]

/-- A BUS_RX that the filter stores with normal priority appends one element to its queue and changes nothing else. -/
theorem exec_busRx_of_store {q : QueueId} {slot : Option Nat} (hx : s.ctrl? inst = some x) (hrun : x.cstate = .running)
    (hbus : isLoopback s.params inst = false) (hid : id.toNat ≤ 0x7FF) (hdlc : dlc.toNat ≤ 15)
    (hverdict : x.classify (id.setWidth 11) = .decided (.store q false) slot)
    (hroom : (x.rxq q).length < s.params.rxqDepth) :
    ∃ e, frameOfElem e = ⟨id.setWidth 11, min dlc.toNat 8, payload data (min dlc.toNat 8)⟩ ∧
      exec (.busRx inst id dlc data 0) s = .next (s.commit inst (x.setRxq (x.rxq q ++ [e]) q) []) := by
  refine ⟨_, frameOfElem_received hdlc _, ?_⟩
  rw [exec_busRx_of_running hx hrun hbus hid hdlc, Controller.acceptFrame_of_store hverdict hroom, State.settle_done]

end

/-- Settles O37: slot 0 decides inside the range, slot 1 outside it under the mask, and the default action elsewhere. -/
theorem filterRouting : Obligations.FilterRouting := by
  unfold Obligations.FilterRouting
  intro s inst x a b xi m rest id dlc data hx hrun hbus hnext hfilters hdefault hroom0 hroom1 hid hdlc
  have hslot0 : x.filters[0]? = some (some ⟨.range, .toQ0, a, b⟩) := by rw [hfilters]; rfl
  have hslot1 : x.filters[1]? = some (some ⟨.mask, .toQ1, xi, m⟩) := by rw [hfilters]; rfl
  have hwidth : (id.setWidth 11 : CanId).toNat = id.toNat := by
    rw [BitVec.toNat_setWidth, Nat.mod_eq_of_lt (by omega)]
  have hrange : FilterRule.matchesId ⟨.range, .toQ0, a, b⟩ (id.setWidth 11) = true ↔
      a.toNat ≤ id.toNat ∧ id.toNat ≤ b.toNat := by
    rw [← hwidth]
    exact matchRange_iff
  have hbefore1 : ¬ (a.toNat ≤ id.toNat ∧ id.toNat ≤ b.toNat) → ∀ j, j < 1 →
      ∃ r, x.filters[j]? = some (some r) ∧ r.matchesId (id.setWidth 11) = false := fun hout j hj => by
    obtain rfl : j = 0 := Nat.lt_one_iff.mp hj
    exact ⟨_, hslot0, Bool.eq_false_iff.mpr (mt hrange.mp hout)⟩
  refine ⟨fun hin => ?_, fun hout hmask => ?_, fun hout hmask => ?_⟩
  · exact exec_busRx_of_store (q := .q0) hx hrun hbus hid hdlc
      (Controller.classify_of_firstMatch (by omega) hslot0 (hrange.mpr hin) nofun) hroom0
  · exact exec_busRx_of_store (q := .q1) hx hrun hbus hid hdlc
      (Controller.classify_of_firstMatch (by omega) hslot1 (matchMask_iff.mpr hmask) (hbefore1 hout)) hroom1
  · have hverdict : x.classify (id.setWidth 11) = .decided .discard none := by
      refine Controller.classify_of_noMatch hdefault fun j hj => ?_
      obtain hj | rfl : j < 1 ∨ j = 1 := by omega
      · exact hbefore1 hout j hj
      · exact ⟨_, hslot1, Bool.eq_false_iff.mpr (mt matchMask_iff.mp hmask)⟩
    rw [exec_busRx_of_running hx hrun hbus hid hdlc, Controller.acceptFrame_of_discard hverdict, State.settle_unchanged hx]

/-! ### The tests every host command begins with (43_controller.md R103) -/

/-- A word that is scheduled next is run. -/
theorem step_of_word {s : State} {w : StepWord} {rest : List Slot} (hfault : s.fault = false)
    (hsched : s.schedule = .word w :: rest) : step s = runWord w { s with schedule := rest } := by
  simp [step, State.fetch, hfault, hsched, runSlot]

/-- A host command's word with a wrong fixed bit is malformed (30_encoding.md R71 (b), (c)). -/
theorem decode_eq_malformed {w : StepWord} (hop : opField w ≠ 0) (hhost : isHostOp (opField w) = true)
    (hbits : fixedBitsRight w = false) : decode w = .error (.malformed (opField w) (instField w)) := by
  rw [decode, if_neg hop, if_neg (by simp [hbits]), if_pos hhost]

/-- R103 (1) for a host command whose must-be-0 bits are what `bad` tests. -/
theorem malformedAnswered_of_host {op : OpCode} {bad : StepWord → Prop} (hop : op ≠ 0) (hhost : isHostOp op = true)
    (hbad : ∀ w, opField w = op → fixedBitsRight w = true → ¬ bad w) : MalformedAnswered op bad := by
  rintro s w rest hfault hsched rfl hw
  have hbits : fixedBitsRight w = false := Bool.eq_false_iff.mpr fun hright => hbad w rfl hright hw
  rw [step_of_word hfault hsched, runWord, decode_eq_malformed hop hhost hbits]
  rfl

/-- R103 (2). -/
theorem unknownAnswered_of_host {op : OpCode} {cmd : InstId → Instr} (hop : ∀ inst, (cmd inst).opcode = op)
    (hinst : ∀ inst, (cmd inst).inst? = some inst) (hhost : ∀ inst, (cmd inst).isHostCommand = true) :
    UnknownAnswered op cmd := by
  intro s inst hs
  rw [exec_unknown_host (hinst inst) (hhost inst) hs, hop]

/-! ### The operands of ADD_FILTER (30_encoding.md R52, R53, 42_filter.md R101) -/

theorem FilterKind.ofCode_eq_some {c : BitVec 8} {kind : FilterKind} (h : c.toNat = kind.code) :
    FilterKind.ofCode c = some kind := by
  cases kind <;> rw [FilterKind.ofCode, h] <;> rfl

theorem FilterKind.ofCode_eq_none {c : BitVec 8} (h : 2 < c.toNat) : FilterKind.ofCode c = none := by
  unfold FilterKind.ofCode
  split
  case h_4 => rfl
  all_goals omega

theorem FilterAction.ofCode_eq_some {c : BitVec 8} {action : FilterAction} (h : c.toNat = action.code) :
    FilterAction.ofCode c = some action := by
  cases action <;> rw [FilterAction.ofCode, h] <;> rfl

theorem FilterAction.ofCode_eq_none {c : BitVec 8} (h : 4 < c.toNat) : FilterAction.ofCode c = none := by
  unfold FilterAction.ofCode
  split
  case h_6 => rfl
  all_goals omega

theorem idOperand_of_le {id : BitVec 16} (h : id.toNat ≤ 0x7FF) : idOperand id = some (id.setWidth 11) :=
  if_pos h

theorem idOperand_of_gt {id : BitVec 16} (h : 0x7FF < id.toNat) : idOperand id = none :=
  if_neg (Nat.not_le.mpr h)

section
variable {kind action : BitVec 8} {id1 id2 : BitVec 16}

theorem ruleOperands_eq_some {k : FilterKind} {a : FilterAction} (hk : kind.toNat = k.code) (ha : action.toNat = a.code)
    (h1 : id1.toNat ≤ 0x7FF) (h2 : id2.toNat ≤ 0x7FF) :
    ruleOperands kind action id1 id2 = some ⟨k, a, id1.setWidth 11, id2.setWidth 11⟩ := by
  rw [ruleOperands, FilterKind.ofCode_eq_some hk, FilterAction.ofCode_eq_some ha, idOperand_of_le h1, idOperand_of_le h2]

theorem ruleOperands_eq_none (h : 2 < kind.toNat ∨ 4 < action.toNat ∨ 0x7FF < id1.toNat ∨ 0x7FF < id2.toNat) :
    ruleOperands kind action id1 id2 = none := by
  unfold ruleOperands
  split
  · next hk ha h1 h2 =>
    rcases h with h | h | h | h
    · cases (FilterKind.ofCode_eq_none h).symm.trans hk
    · cases (FilterAction.ofCode_eq_none h).symm.trans ha
    · cases (idOperand_of_gt h).symm.trans h1
    · cases (idOperand_of_gt h).symm.trans h2
  · rfl

/-! ### What ADD_FILTER does to an instance (42_filter.md R101) -/

variable {p : Params} {x : Controller}

theorem Controller.addFilter_of_uninitialized (h : x.cstate = .uninitialized) :
    x.addFilter p kind action id1 id2 = x.raise 0x2 .notInitialized := by
  rw [Controller.addFilter, h]

theorem Controller.addFilter_of_running (h : x.cstate = .running) :
    x.addFilter p kind action id1 id2 = x.raise 0x2 .error := by
  rw [Controller.addFilter, h]

theorem Controller.addFilter_of_badOperands (h : x.cstate = .configured) (hrule : ruleOperands kind action id1 id2 = none) :
    x.addFilter p kind action id1 id2 = x.raise 0x2 .invalidArgument := by
  simp only [Controller.addFilter, h, hrule]

variable {r : FilterRule}

theorem Controller.addFilter_of_full (h : x.cstate = .configured) (hrule : ruleOperands kind action id1 id2 = some r)
    (hfull : x.nextSlot = p.filterCapacity) : x.addFilter p kind action id1 id2 = x.raise 0x2 .error := by
  simp only [Controller.addFilter, h, hrule, if_pos hfull]

theorem Controller.addFilter_of_room (h : x.cstate = .configured) (hrule : ruleOperands kind action id1 id2 = some r)
    (hroom : x.nextSlot ≠ p.filterCapacity) :
    x.addFilter p kind action id1 id2 = .done (x.putRule r) [.resp 0x2 .ok] := by
  simp only [Controller.addFilter, Controller.putRule, h, hrule, if_neg hroom]

end

theorem exec_addFilter {s : State} {inst : InstId} {x : Controller} (hx : s.ctrl? inst = some x) (kind action : BitVec 8)
    (id1 id2 : BitVec 16) :
    exec (.addFilter inst kind action id1 id2) s = s.settle inst (x.addFilter s.params kind action id1 id2) :=
  exec_known rfl hx

/-- Settles O38: the common tests, then the branches of R101 in its order. -/
theorem addFilterTakesNextSlot : Obligations.AddFilterTakesNextSlot := by
  unfold Obligations.AddFilterTakesNextSlot
  refine ⟨malformedAnswered_of_host (by decide) (by decide) fun w hop hbits hbad => hbad (slice_eq_zero hbits hop 0 72),
    fun k a i1 i2 => unknownAnswered_of_host (fun _ => rfl) (fun _ => rfl) (fun _ => rfl), ?_⟩
  intro s inst x k a i1 i2 hx
  rw [exec_addFilter hx]
  refine ⟨fun hstate => ?_, fun hstate => ?_, fun hstate hbad => ?_, fun kind action hstate hk ha h1 h2 => ?_⟩
  · rw [Controller.addFilter_of_uninitialized hstate, State.settle_raise hx]
  · rw [Controller.addFilter_of_running hstate, State.settle_raise hx]
  · rw [Controller.addFilter_of_badOperands hstate (ruleOperands_eq_none hbad), State.settle_raise hx]
  · have hrule := ruleOperands_eq_some hk ha h1 h2
    refine ⟨fun hfull => ?_, fun hroom => ?_⟩
    · rw [Controller.addFilter_of_full hstate hrule hfull, State.settle_raise hx]
    · rw [Controller.addFilter_of_room hstate hrule hroom]
      rfl

/-! ### Filling the table (42_filter.md R102) -/

/-- The ADD_FILTER that names a rule. -/
def FilterRule.addTo (inst : InstId) (r : FilterRule) : Instr :=
  .addFilter inst (BitVec.ofNat 8 r.kind.code) (BitVec.ofNat 8 r.action.code) (r.id1.setWidth 16) (r.id2.setWidth 16)

/-- The operands that name a rule are in range and give it back. -/
theorem ruleOperands_addTo (r : FilterRule) : ruleOperands (BitVec.ofNat 8 r.kind.code) (BitVec.ofNat 8 r.action.code)
    (r.id1.setWidth 16) (r.id2.setWidth 16) = some r := by
  obtain ⟨kind, action, id1, id2⟩ := r
  have hid : ∀ i : CanId, (i.setWidth 16).toNat ≤ 0x7FF := fun i => by
    rw [BitVec.toNat_setWidth_of_le (by decide)]
    exact Nat.le_of_lt_succ i.isLt
  have hback : ∀ i : CanId, (i.setWidth 16).setWidth 11 = i := fun i => by
    rw [BitVec.setWidth_setWidth_of_le i (by decide), BitVec.setWidth_eq]
  rw [ruleOperands_eq_some (k := kind) (a := action) (by cases kind <;> rfl) (by cases action <;> rfl) (hid id1) (hid id2),
    hback, hback]

/-- The second of two commits to one instance decides it, and the events follow each other. -/
theorem State.commit_commit (s : State) (inst : InstId) (x y : Controller) (evs evs' : List Event) :
    (s.commit inst x evs).commit inst y evs' = s.commit inst y (evs ++ evs') := by
  simp [State.commit, List.append_assoc]

theorem State.emit_emit (s : State) (inst : InstId) (evs evs' : List Event) :
    (s.emit inst evs).emit inst evs' = s.emit inst (evs ++ evs') := by
  simp [State.emit, List.append_assoc]

@[simp] theorem State.ctrl?_emit (s : State) (inst j : InstId) (evs : List Event) :
    (s.emit inst evs).ctrl? j = s.ctrl? j := rfl

theorem execAll_cons {i : Instr} {s t : State} (h : exec i s = .next t) (l : List Instr) :
    execAll (i :: l) s = execAll l t := by
  rw [execAll, h]

theorem execAll_append {l : List Instr} (l' : List Instr) :
    ∀ {s t : State}, execAll l s = .next t → execAll (l ++ l') s = execAll l' t := by
  induction l with
  | nil => intro s t h; cases h; rfl
  | cons i l ih =>
    intro s t h
    cases hi : exec i s with
    | next u =>
      rw [execAll_cons hi] at h
      rw [List.cons_append, execAll_cons hi, ih h]
    | fault r => simp [execAll, hi] at h
    | refused r => simp [execAll, hi] at h

section
variable {inst : InstId}

/-- While there is room, each rule goes into the next slot and is answered OK. -/
theorem execAll_addTo_of_room (rules : List FilterRule) : ∀ {s : State} {x : Controller}, s.ctrl? inst = some x →
    x.cstate = .configured → x.nextSlot + rules.length ≤ s.params.filterCapacity →
    execAll (rules.map (FilterRule.addTo inst)) s =
      .next (s.commit inst (rules.foldl Controller.putRule x) (List.replicate rules.length (.resp 0x2 .ok))) := by
  induction rules with
  | nil =>
    intro s x hx _ _
    rw [List.foldl_nil, List.length_nil, List.replicate_zero, State.commit_self hx, State.emit_nil]
    rfl
  | cons r rules ih =>
    intro s x hx hc hroom
    rw [List.length_cons] at hroom
    have hexec : exec (r.addTo inst) s = .next (s.commit inst (x.putRule r) [.resp 0x2 .ok]) := by
      rw [FilterRule.addTo, exec_addFilter hx, Controller.addFilter_of_room hc (ruleOperands_addTo r) (by omega),
        State.settle_done]
    have hput : (s.commit inst (x.putRule r) [.resp 0x2 .ok]).ctrl? inst = some (x.putRule r) :=
      State.ctrl?_commit hx _ _
    rw [List.map_cons, execAll_cons hexec,
      ih hput hc (by rw [Controller.putRule_nextSlot, State.commit_params]; omega), State.commit_commit]
    rfl

/-- At FILTER_CAPACITY each rule is answered Error. -/
theorem execAll_addTo_of_full (rules : List FilterRule) : ∀ {s : State} {x : Controller}, s.ctrl? inst = some x →
    x.cstate = .configured → x.nextSlot = s.params.filterCapacity →
    execAll (rules.map (FilterRule.addTo inst)) s =
      .next (s.emit inst (List.replicate rules.length (.resp 0x2 .error))) := by
  induction rules with
  | nil =>
    intro s x _ _ _
    rw [List.length_nil, List.replicate_zero, State.emit_nil]
    rfl
  | cons r rules ih =>
    intro s x hx hc hfull
    have hexec : exec (r.addTo inst) s = .next (s.emit inst [.resp 0x2 .error]) := by
      rw [FilterRule.addTo, exec_addFilter hx, Controller.addFilter_of_full hc (ruleOperands_addTo r) hfull,
        State.settle_raise hx]
    rw [List.map_cons, execAll_cons hexec, ih (s := s.emit inst _) hx hc hfull, State.emit_emit]
    rfl

end

/-- Rules put one after the other stand in order from the next slot on, and nothing else of the instance changes. -/
theorem Controller.foldl_putRule (rules : List FilterRule) : ∀ {x : Controller},
    x.nextSlot + rules.length ≤ x.filters.length →
    rules.foldl Controller.putRule x = { x with
      filters := x.filters.take x.nextSlot ++ rules.map some ++ x.filters.drop (x.nextSlot + rules.length)
      nextSlot := x.nextSlot + rules.length } := by
  induction rules with
  | nil => intro x _; simp
  | cons r rules ih =>
    intro x hroom
    rw [List.length_cons] at hroom
    have hdrop : (x.putRule r).filters.drop (x.nextSlot + 1 + rules.length) =
        x.filters.drop (x.nextSlot + 1 + rules.length) := List.drop_set_of_lt (by omega)
    rw [List.foldl_cons, ih (by rw [Controller.putRule_nextSlot, Controller.putRule_filters_length]; omega),
      Controller.putRule_take_nextSlot (by omega), Controller.putRule_nextSlot, hdrop, List.length_cons, List.map_cons,
      Nat.add_assoc, Nat.add_comm 1, List.append_assoc _ [some r], List.singleton_append]
    rfl

/-- Rules that fill the table are answered OK, and those after them Error. -/
theorem execAll_addTo_append {s : State} {inst : InstId} {x : Controller} {rules : List FilterRule} (late : List FilterRule)
    (hx : s.ctrl? inst = some x) (hc : x.cstate = .configured) (hlen : x.filters.length = s.params.filterCapacity)
    (hfill : x.nextSlot + rules.length = s.params.filterCapacity) :
    execAll ((rules ++ late).map (FilterRule.addTo inst)) s =
      .next ((s.commit inst (rules.foldl Controller.putRule x) (List.replicate rules.length (.resp 0x2 .ok))).emit inst
        (List.replicate late.length (.resp 0x2 .error))) := by
  have hfilled := Controller.foldl_putRule rules (hfill.trans hlen.symm).le
  have hcstate : (rules.foldl Controller.putRule x).cstate = .configured := by rw [hfilled, ← hc]
  have hnext : (rules.foldl Controller.putRule x).nextSlot = s.params.filterCapacity := by rw [hfilled, ← hfill]
  rw [List.map_append, execAll_append _ (execAll_addTo_of_room rules hx hc hfill.le)]
  exact execAll_addTo_of_full late (State.ctrl?_commit hx _ _) hcstate hnext

/-- Settles O39: the first FILTER_CAPACITY rules fill the table, and the others find it full. -/
theorem slotExhaustion : Obligations.SlotExhaustion := by
  unfold Obligations.SlotExhaustion
  intro s inst x rules k hx hc hempty hlen hrules
  have htake : (rules.take s.params.filterCapacity).length = s.params.filterCapacity := by
    rw [List.length_take]
    omega
  have hdrop : (rules.drop s.params.filterCapacity).length = k := by
    rw [List.length_drop]
    omega
  have hfilled : (rules.take s.params.filterCapacity).foldl Controller.putRule x = { x with
      filters := (rules.take s.params.filterCapacity).map some, nextSlot := s.params.filterCapacity } := by
    rw [Controller.foldl_putRule _ (by omega), hempty, htake, Nat.zero_add, ← hlen, List.drop_length, List.take_zero,
      List.nil_append, List.append_nil]
  have hall := execAll_addTo_append (rules := rules.take s.params.filterCapacity) (rules.drop s.params.filterCapacity)
    hx hc hlen (by omega)
  rw [List.take_append_drop, hfilled, htake, hdrop] at hall
  refine ⟨_, hall, ?_, by simp⟩
  rw [State.ctrl?_emit, State.ctrl?_commit hx]

end Sys2Proof.Machine

/-! PROOFS of the family 43_controller.md: the instance reset, INIT, START and STOP, the callback registrations, and the laws of the
lifecycle. -/

namespace Sys2Proof.Machine

/-! ### The instance reset (43_controller.md R105) -/

/-- Settles O22: the filter table is FILTER_CAPACITY empty entries, and the rest is the definition's own list. -/
theorem hwResetClearsItsList : Obligations.HwResetClearsItsList := by
  unfold Obligations.HwResetClearsItsList
  intro p x
  have hfilters : (x.hwReset p).filters = List.replicate p.filterCapacity none := x.hwReset_filters p
  refine ⟨fun k hk => ?_, ?_, List.replicate p.filterCapacity none, rfl⟩
  · rw [hfilters, List.getElem?_replicate_of_lt hk]
  · rw [hfilters, List.length_replicate]

/-! ### INIT (43_controller.md R106) -/

theorem DefaultAction.ofCode_eq_some {c : BitVec 8} {a : DefaultAction} (h : c.toNat = a.code) :
    DefaultAction.ofCode c = some a := by
  cases a <;> rw [DefaultAction.ofCode, h] <;> rfl

theorem DefaultAction.ofCode_eq_none {c : BitVec 8} (h : 2 < c.toNat) : DefaultAction.ofCode c = none := by
  unfold DefaultAction.ofCode
  split
  case h_4 => rfl
  all_goals omega

section
variable {p : Params} {x : Controller} {bt : BtRegs} {action : BitVec 8} {requested : Reasons}

theorem Controller.initialise_of_running (h : x.cstate = .running) :
    x.initialise p bt action requested = x.raise 0x1 .alreadyInitialized := by
  rw [Controller.initialise, h]

theorem Controller.initialise_of_badTiming (h : x.cstate ≠ .running) (hbt : btLegal p bt.timing = false) :
    x.initialise p bt action requested =
      .done { x.hwReset p with cstate := .uninitialized } [.resp 0x1 .error] := by
  cases hc : x.cstate with
  | running => exact absurd hc h
  | uninitialized | configured => simp [Controller.initialise, hc, hbt]

theorem Controller.initialise_of_badAction (h : x.cstate ≠ .running) (hbt : btLegal p bt.timing = true)
    (ha : DefaultAction.ofCode action = none) :
    x.initialise p bt action requested =
      .done { x.hwReset p with cstate := .uninitialized, bt := x.btAfterRejection p bt } [.resp 0x1 .error] := by
  cases hc : x.cstate with
  | running => exact absurd hc h
  | uninitialized | configured => simp [Controller.initialise, hc, hbt, ha]

theorem Controller.initialise_of_legal {a : DefaultAction} (h : x.cstate ≠ .running) (hbt : btLegal p bt.timing = true)
    (ha : DefaultAction.ofCode action = some a) :
    x.initialise p bt action requested =
      .done { x.hwReset p with
          cstate := .configured, bt := some bt, defaultAction := some a, irqEnable := enablesOf requested }
        [.resp 0x1 .ok] := by
  cases hc : x.cstate with
  | running => exact absurd hc h
  | uninitialized | configured => simp [Controller.initialise, hc, hbt, ha]

end

/-- Settles O19: the common tests, then the branches of R106 in its order. -/
theorem initConfiguresInstance : Obligations.InitConfiguresInstance := by
  unfold Obligations.InitConfiguresInstance
  refine ⟨malformedAnswered_of_host (by decide) (by decide) fun w hop hbits hbad => ?_,
    fun p t1 t2 j a m => unknownAnswered_of_host (fun _ => rfl) (fun _ => rfl) (fun _ => rfl), ?_⟩
  · rcases hbad with hbad | hbad
    · exact hbad (slice_eq_zero hbits hop 0 40)
    · exact hbad (slice_eq_zero hbits hop 46 2)
  intro s inst x p t1 t2 j a m hx
  have hexec : exec (.init inst p t1 t2 j a m) s = s.settle inst (x.initialise s.params ⟨p, t1, t2, j⟩ a m) :=
    exec_known rfl hx
  rw [hexec]
  refine ⟨fun hrun => ?_, fun hrun hbt => ?_, fun hrun hbt ha => ?_, fun d hrun hbt ha => ?_⟩
  · rw [Controller.initialise_of_running hrun, State.settle_raise hx]
  · rw [Controller.initialise_of_badTiming hrun hbt, State.settle_done]
  · rw [Controller.initialise_of_badAction hrun hbt (DefaultAction.ofCode_eq_none ha), State.settle_done]
    refine ⟨fun hwrite => ?_, fun hwrite => ?_⟩
    · rw [Controller.btAfterRejection, hwrite]
    · rw [Controller.btAfterRejection, hwrite]
      rfl
  · rw [Controller.initialise_of_legal hrun hbt (DefaultAction.ofCode_eq_some ha), State.settle_done]
    rfl

/-! ### START and STOP (43_controller.md R107, R108) -/

section
variable {p : Params} {x : Controller}

theorem Controller.startUp_of_uninitialized (h : x.cstate = .uninitialized) : x.startUp = x.raise 0x3 .notInitialized := by
  rw [Controller.startUp, h]

theorem Controller.startUp_of_configured (h : x.cstate = .configured) :
    x.startUp = .done { x with cstate := .running } [.resp 0x3 .ok] := by
  rw [Controller.startUp, h]

theorem Controller.startUp_of_running (h : x.cstate = .running) : x.startUp = x.raise 0x3 .ok := by
  rw [Controller.startUp, h]

theorem Controller.shutDown_of_uninitialized (h : x.cstate = .uninitialized) :
    x.shutDown p = x.raise 0x5 .notInitialized := by
  rw [Controller.shutDown, h]

theorem Controller.shutDown_of_configured (h : x.cstate = .configured) : x.shutDown p = x.raise 0x5 .notStarted := by
  rw [Controller.shutDown, h]

theorem Controller.shutDown_of_running (h : x.cstate = .running) :
    x.shutDown p = .done
      { x.hwReset p with cbRx0 := none, cbRx1 := none, cbErr := none, cbHp := none, cstate := .uninitialized }
      ((if x.poll = none then [] else [.pollDone .notStarted]) ++ [.resp 0x5 .ok]) := by
  rw [Controller.shutDown, h]

end

/-- Settles O20: the common tests, then one branch per lifecycle state. -/
theorem startEntersRunning : Obligations.StartEntersRunning := by
  unfold Obligations.StartEntersRunning
  refine ⟨malformedAnswered_of_host (by decide) (by decide) fun w hop hbits hbad => hbad (slice_eq_zero hbits hop 0 120),
    unknownAnswered_of_host (fun _ => rfl) (fun _ => rfl) (fun _ => rfl), ?_⟩
  intro s inst x hx
  have hexec : exec (.start inst) s = s.settle inst x.startUp := exec_known rfl hx
  rw [hexec]
  refine ⟨fun hstate => ?_, fun hstate => ?_, fun hstate => ?_⟩
  · rw [Controller.startUp_of_uninitialized hstate, State.settle_raise hx]
  · rw [Controller.startUp_of_configured hstate, State.settle_done]
  · rw [Controller.startUp_of_running hstate, State.settle_raise hx]

/-- Settles O21: the common tests, then one branch per lifecycle state; in Running a held poll ends first. -/
theorem stopReleasesInstance : Obligations.StopReleasesInstance := by
  unfold Obligations.StopReleasesInstance
  refine ⟨malformedAnswered_of_host (by decide) (by decide) fun w hop hbits hbad => hbad (slice_eq_zero hbits hop 0 120),
    unknownAnswered_of_host (fun _ => rfl) (fun _ => rfl) (fun _ => rfl), ?_⟩
  intro s inst x hx
  have hexec : exec (.stop inst) s = s.settle inst (x.shutDown s.params) := exec_known rfl hx
  rw [hexec]
  refine ⟨fun hstate => ?_, fun hstate => ?_, fun hstate => ?_⟩
  · rw [Controller.shutDown_of_uninitialized hstate, State.settle_raise hx]
  · rw [Controller.shutDown_of_configured hstate, State.settle_raise hx]
  · rw [Controller.shutDown_of_running hstate, State.settle_done]
    refine ⟨_, fun hpoll => ?_, fun hpoll => ?_, rfl⟩
    · rw [if_pos hpoll, List.nil_append]
    · rw [if_neg hpoll, List.singleton_append]

/-! ### The callback registrations (43_controller.md R109 to R111) -/

theorem QueueId.ofCode_eq_some {c : BitVec 8} {q : QueueId} (h : c.toNat = q.code) : QueueId.ofCode c = some q := by
  cases q <;> rw [QueueId.ofCode, h] <;> rfl

theorem QueueId.ofCode_eq_none {c : BitVec 8} (h : 1 < c.toNat) : QueueId.ofCode c = none := by
  unfold QueueId.ofCode
  split
  case h_3 => rfl
  all_goals omega

section
variable {x : Controller} {queueId : BitVec 8}

theorem Controller.registerRx_of_badQueue (h : QueueId.ofCode queueId = none) (handler : Handler) :
    x.registerRx queueId handler = x.raise 0x6 .invalidArgument := by
  rw [Controller.registerRx, h]

theorem Controller.registerRx_of_queue {q : QueueId} (h : QueueId.ofCode queueId = some q) (handler : Handler) :
    x.registerRx queueId handler = .done (x.setCbRx (handlerOperand handler) q) [.resp 0x6 .ok] := by
  rw [Controller.registerRx, h]

end

/-- Settles O23: the common tests, then the queue the operand names, if any. -/
theorem registerReceiveCallback : Obligations.RegisterReceiveCallback := by
  unfold Obligations.RegisterReceiveCallback
  refine ⟨malformedAnswered_of_host (by decide) (by decide) fun w hop hbits hbad => hbad (slice_eq_zero hbits hop 0 80),
    fun q h => unknownAnswered_of_host (fun _ => rfl) (fun _ => rfl) (fun _ => rfl), ?_⟩
  intro s inst x q h hx
  have hexec : exec (.regRxCb inst q h) s = s.settle inst (x.registerRx q h) := exec_known rfl hx
  rw [hexec]
  refine ⟨fun hq => ?_, fun hq => ?_, fun hq => ?_⟩
  · rw [Controller.registerRx_of_badQueue (QueueId.ofCode_eq_none hq), State.settle_raise hx]
  · subst hq
    rw [Controller.registerRx_of_queue (q := .q0) rfl, State.settle_done]
    rfl
  · subst hq
    rw [Controller.registerRx_of_queue (q := .q1) rfl, State.settle_done]
    rfl

/-- A registration without a queue whose fixed bits are right has 0 below the handler and in the `queue_id` field
(30_encoding.md R66). -/
theorem registration_mustBeZero {w : StepWord} {op : OpCode} (hbits : fixedBitsRight w = true) (hop : opField w = op)
    (hmask : (fixedMask op).extractLsb' 0 80 = BitVec.allOnes 80 ∧ (fixedMask op).extractLsb' 112 8 = BitVec.allOnes 8) :
    ¬ (w.extractLsb' 0 80 ≠ 0 ∨ w.extractLsb' 112 8 ≠ 0) := by
  rintro (hbad | hbad)
  · exact hbad (slice_eq_zero hbits hop 0 80 (hmask := hmask.1))
  · exact hbad (slice_eq_zero hbits hop 112 8 (hmask := hmask.2))

/-- Settles O24: the common tests, then the one store. -/
theorem registerErrorCallback : Obligations.RegisterErrorCallback := by
  unfold Obligations.RegisterErrorCallback
  refine ⟨malformedAnswered_of_host (by decide) (by decide) fun w hop hbits => registration_mustBeZero hbits hop (by decide),
    fun h => unknownAnswered_of_host (fun _ => rfl) (fun _ => rfl) (fun _ => rfl), ?_⟩
  intro s inst x h hx
  exact exec_known rfl hx

/-- Settles O25: the common tests, then the one store. -/
theorem registerHpCallback : Obligations.RegisterHpCallback := by
  unfold Obligations.RegisterHpCallback
  refine ⟨malformedAnswered_of_host (by decide) (by decide) fun w hop hbits => registration_mustBeZero hbits hop (by decide),
    fun h => unknownAnswered_of_host (fun _ => rfl) (fun _ => rfl) (fun _ => rfl), ?_⟩
  intro s inst x h hx
  exact exec_known rfl hx

/-! ### What a scheduled step does to one instance -/

/-- What happens to an instance that the step's word does not name, or that one of the block's internal steps touches. -/
inductive Controller.OwnChange (p : Params) (x : Controller) : Controller → Prop where
  | same : Controller.OwnChange p x x
  | tick : Controller.OwnChange p x (x.tick p).1
  | pollDone {h : Poll} : x.poll = some h → Controller.OwnChange p x (x.finishPoll p h.queue).1
  | deqResume {y : Controller} {evs : List Event} : x.takeOldest = .done y evs → Controller.OwnChange p x y

/-- Every instance takes the tick. -/
theorem tickFrom_getElem? (p : Params) (l : List Controller) : ∀ n k : Nat,
    (tickFrom p n l).1[k]? = l[k]?.map fun x => (x.tick p).1 := by
  induction l with
  | nil => intro n k; rfl
  | cons x xs ih =>
    intro n k
    cases k with
    | zero => rfl
    | succ k => exact ih (n + 1) k

/-- Instance `k` after a commit is the committed one if the commit names it, and else what it was. -/
theorem State.ctrls_commit_cases {s : State} {inst : InstId} {k : Nat} {x y z : Controller} {evs : List Event}
    (hx : s.ctrls[k]? = some x) (hy : (s.commit inst z evs).ctrls[k]? = some y) : (inst.toNat = k ∧ y = z) ∨ y = x := by
  by_cases hk : k = inst.toNat
  · subst hk
    exact .inl ⟨rfl, Option.some.inj (hy.symm.trans (State.ctrl?_commit hx z evs))⟩
  · rw [State.ctrls_commit_ne s hk, hx] at hy
    exact .inr (Option.some.inj hy.symm)

/-- A scheduled step changes an instance through the body of the word that names it, or as `OwnChange` says. -/
theorem runSlot_ctrl_cases {s t : State} {slot : Slot} {k : Nat} {x y : Controller} (hrun : runSlot slot s = .next t)
    (hx : s.ctrls[k]? = some x) (hy : t.ctrls[k]? = some y) :
    (∃ w i inst evs, slot = .word w ∧ decode w = .ok i ∧ i.inst? = some inst ∧ inst.toNat = k ∧
      localBody s.params i x = .done y evs) ∨ x.OwnChange s.params y := by
  have hsame : s.ctrls[k]? = some y → x.OwnChange s.params y := fun h => by
    cases hx.symm.trans h
    exact .same
  cases slot with
  | word w =>
    rw [runSlot, runWord] at hrun
    cases hd : decode w with
    | error e =>
      rw [hd] at hrun
      obtain ⟨op, inst, rfl⟩ := rejectWord_next hrun
      exact .inr (hsame hy)
    | ok i =>
      rw [hd] at hrun
      cases hi : i.inst? with
      | none =>
        cases inst?_eq_none hi
        cases hrun
        rw [tickFrom_getElem?, hx] at hy
        cases hy
        exact .inr .tick
      | some inst =>
        rcases exec_next_cases hi hrun with ⟨-, -, rfl⟩ | ⟨z, hz, ⟨z', evs, hbody, rfl⟩ | ⟨-, rfl⟩⟩
        · exact .inr (hsame hy)
        · rcases State.ctrls_commit_cases hx hy with ⟨rfl, rfl⟩ | rfl
          · cases hx.symm.trans hz
            exact .inl ⟨w, i, inst, evs, rfl, hd, hi, rfl, hbody⟩
          · exact .inr .same
        · exact .inr (hsame hy)
  | pollDone inst =>
    cases hrun
    rcases execPollDone_cases inst s with he | ⟨z, h, hz, hpoll, -, he⟩ <;> rw [he] at hy
    · exact .inr (hsame hy)
    · rcases State.ctrls_commit_cases hx hy with ⟨rfl, rfl⟩ | rfl
      · cases hx.symm.trans hz
        exact .inr (.pollDone hpoll)
      · exact .inr .same
  | deqResume inst =>
    rw [runSlot] at hrun
    rcases execDeqResume_cases inst s with he | ⟨z, c, rest, hz, -, hchan, he⟩ <;> cases he.symm.trans hrun
    · exact .inr (hsame hy)
    · rcases State.ctrls_commit_cases hx hy with ⟨rfl, rfl⟩ | rfl
      · cases hx.symm.trans hz
        exact .inr (.deqResume (by rw [Controller.takeOldest, hchan]))
      · exact .inr .same

/-! ### What leaves the configuration as it is (43_controller.md R112 (c)) -/

/-- The lifecycle state and the registers that only host commands write (43_controller.md R112 (c)). -/
def Controller.config (x : Controller) :=
  (x.cstate, x.bt, x.defaultAction, x.irqEnable, x.filters, x.nextSlot, x.cbRx0, x.cbRx1, x.cbErr, x.cbHp)

/-- A local result whose instance, if there is one, agrees with `x` on what `f` reads. -/
def LocalResult.Keeps {α : Type} (f : Controller → α) (x : Controller) : LocalResult → Prop
  | .done y _ => f y = f x
  | .fatal | .refused _ => True

theorem LocalResult.Keeps.of_done {α : Type} {f : Controller → α} {x y : Controller} {r : LocalResult} {evs : List Event}
    (h : r.Keeps f x) (hr : r = .done y evs) : f y = f x := by
  subst hr
  exact h

section
variable (p : Params) (x : Controller)

theorem Controller.cstate_eq_of_config {x y : Controller} (h : y.config = x.config) : y.cstate = x.cstate :=
  congrArg Prod.fst h

@[simp] theorem Controller.setRxq_config (l : List Elem) (q : QueueId) : (x.setRxq l q).config = x.config := by
  cases q <;> rfl

@[simp] theorem Controller.markLost_config (q : QueueId) : (x.markLost q).config = x.config := by
  cases q <;> rfl

@[simp] theorem Controller.extractOne_config (q : QueueId) : (x.extractOne p q).1.config = x.config := by
  obtain ⟨ch, n, he, -⟩ := Controller.extractOne_shape p x q
  rw [he]
  exact x.setRxq_config _ q

@[simp] theorem Controller.storeFrame_config (id : CanId) (dlc : Dlc) (data : List Byte) (q : QueueId) :
    (x.storeFrame p id dlc data q).1.config = x.config := by
  rcases Controller.storeFrame_cases p id dlc data q x with ⟨-, he⟩ | ⟨-, he⟩ <;> rw [he]
  · exact x.setRxq_config _ q
  · exact x.markLost_config q

@[simp] theorem Controller.stored_config (id : CanId) (dlc : Dlc) (data : List Byte) (q : QueueId) (hp : Option Nat) :
    (x.stored p id dlc data q hp).config = x.config := by
  cases hp <;> exact x.storeFrame_config p id dlc data q

@[simp] theorem Controller.finishPoll_config (q : QueueId) : (x.finishPoll p q).1.config = x.config :=
  x.extractOne_config p q

@[simp] theorem Controller.dispatchBlock_config (m : Reasons) (c : ReasonClass) :
    (x.dispatchBlock p m c).1.config = x.config := by
  cases c <;> unfold Controller.dispatchBlock <;> dsimp only <;> split
  case rxq0.isTrue => exact x.extractOne_config p .q0
  case rxq1.isTrue => exact x.extractOne_config p .q1
  all_goals rfl

@[simp] theorem Controller.dispatchBlocks_config (m : Reasons) (cs : List ReasonClass) :
    ∀ x : Controller, (Controller.dispatchBlocks p m cs x).1.config = x.config := by
  induction cs with
  | nil => exact fun _ => rfl
  | cons c cs ih => exact fun x => (ih _).trans (x.dispatchBlock_config p m c)

@[simp] theorem Controller.tick_config : (x.tick p).1.config = x.config := by
  unfold Controller.tick
  split
  · rfl
  · split
    · rfl
    · split
      · exact x.finishPoll_config p _
      · rfl

theorem Controller.acceptFrame_keeps_config (id : CanId) (dlc : Dlc) (data : List Byte) :
    (x.acceptFrame p id dlc data).Keeps Controller.config x := by
  rcases Controller.acceptFrame_cases p id dlc data x with ⟨-, he⟩ | ⟨_, -, he⟩ | ⟨q, hp, slot, -, he⟩ <;> rw [he]
  · trivial
  · exact rfl
  · exact x.stored_config p id dlc data q _

theorem Controller.transmit_keeps_config (inst : InstId) : (x.transmit p inst).Keeps Controller.config x := by
  unfold Controller.transmit
  dsimp only
  split
  · exact rfl
  · split
    · exact Controller.acceptFrame_keeps_config p (x.takeTx p _) _ _ _
    · exact rfl

theorem Controller.takeOldest_keeps_config : x.takeOldest.Keeps Controller.config x := by
  unfold Controller.takeOldest
  split <;> exact rfl

/-- An event keeps the configuration of the instance it names. -/
theorem localBody_keeps_config {i : Instr} (hi : i.isHostCommand = false) :
    (localBody p i x).Keeps Controller.config x := by
  cases i with
  | busRx =>
    dsimp only [localBody]
    split
    · split
      · exact rfl
      · exact x.acceptFrame_keeps_config p _ _ _
    · trivial
  | txXmit inst =>
    dsimp only [localBody]
    split
    · exact x.transmit_keeps_config p inst
    · exact rfl
  | irqDispatch =>
    dsimp only [localBody]
    split
    · exact Controller.dispatchBlocks_config p _ _ x
    · exact rfl
  | busStatus =>
    dsimp only [localBody]
    split
    · split <;> exact rfl
    · trivial
  | tick => exact rfl
  | _ => cases hi

/-- What no host command does to an instance keeps its configuration. -/
theorem Controller.OwnChange.config_eq {p : Params} {x y : Controller} (h : x.OwnChange p y) : y.config = x.config := by
  cases h with
  | same => rfl
  | tick => exact x.tick_config p
  | pollDone => exact x.finishPoll_config p _
  | deqResume htake => exact x.takeOldest_keeps_config.of_done htake

/-! ### What leaves the lifecycle state as it is (43_controller.md R112 (a)) -/

theorem Controller.addFilter_keeps_cstate (kind action : BitVec 8) (id1 id2 : BitVec 16) :
    (x.addFilter p kind action id1 id2).Keeps Controller.cstate x := by
  unfold Controller.addFilter
  split
  · exact rfl
  · exact rfl
  · split
    · exact rfl
    · split <;> exact rfl

theorem Controller.submit_keeps_cstate (id : BitVec 16) (length : BitVec 8) (data : BitVec 64) :
    (x.submit p id length data).Keeps Controller.cstate x := by
  unfold Controller.submit
  split
  · exact rfl
  · split
    · exact rfl
    · split <;> exact rfl

theorem Controller.registerRx_keeps_cstate (queueId : BitVec 8) (handler : Handler) :
    (x.registerRx queueId handler).Keeps Controller.cstate x := by
  unfold Controller.registerRx
  split
  · exact rfl
  · exact x.setCbRx_cstate _ _

theorem Controller.pollReceive_keeps_cstate (queueId : BitVec 8) (timeout : BitVec 32) :
    (x.pollReceive p queueId timeout).Keeps Controller.cstate x := by
  unfold Controller.pollReceive
  split
  · exact rfl
  · split
    · exact rfl
    · split
      · exact rfl
      · split
        · trivial
        · split
          · exact Controller.cstate_eq_of_config (x.extractOne_config p _)
          · split <;> exact rfl

theorem Controller.dequeue_keeps_cstate : x.dequeue.Keeps Controller.cstate x := by
  unfold Controller.dequeue Controller.takeOldest
  split
  · trivial
  · split <;> exact rfl

variable {p x}

theorem Controller.initialise_cstate_cases {y : Controller} {bt : BtRegs} {action : BitVec 8} {m : Reasons}
    {evs : List Event} (h : x.initialise p bt action m = .done y evs) (hne : y.cstate ≠ x.cstate) :
    y.cstate = .configured ∨ y.cstate = .uninitialized := by
  by_cases hrun : x.cstate = .running
  · rw [Controller.initialise_of_running hrun] at h
    cases h
    exact absurd rfl hne
  · cases hbt : btLegal p bt.timing with
    | false =>
      rw [Controller.initialise_of_badTiming hrun hbt] at h
      cases h
      exact .inr rfl
    | true =>
      cases ha : DefaultAction.ofCode action with
      | none =>
        rw [Controller.initialise_of_badAction hrun hbt ha] at h
        cases h
        exact .inr rfl
      | some a =>
        rw [Controller.initialise_of_legal hrun hbt ha] at h
        cases h
        exact .inl rfl

theorem Controller.startUp_cstate_cases {y : Controller} {evs : List Event} (h : x.startUp = .done y evs)
    (hne : y.cstate ≠ x.cstate) : x.cstate = .configured ∧ y.cstate = .running := by
  cases hc : x.cstate with
  | uninitialized =>
    rw [Controller.startUp_of_uninitialized hc] at h
    cases h
    exact absurd rfl hne
  | configured =>
    rw [Controller.startUp_of_configured hc] at h
    cases h
    exact ⟨rfl, rfl⟩
  | running =>
    rw [Controller.startUp_of_running hc] at h
    cases h
    exact absurd rfl hne

theorem Controller.shutDown_cstate_cases {y : Controller} {evs : List Event} (h : x.shutDown p = .done y evs)
    (hne : y.cstate ≠ x.cstate) : x.cstate = .running ∧ y.cstate = .uninitialized := by
  cases hc : x.cstate with
  | uninitialized =>
    rw [Controller.shutDown_of_uninitialized hc] at h
    cases h
    exact absurd rfl hne
  | configured =>
    rw [Controller.shutDown_of_configured hc] at h
    cases h
    exact absurd rfl hne
  | running =>
    rw [Controller.shutDown_of_running hc] at h
    cases h
    exact ⟨rfl, rfl⟩

/-- Only INIT, START and STOP change the lifecycle state, each as its rule says. -/
theorem localBody_cstate_cases {i : Instr} {y : Controller} {evs : List Event} (h : localBody p i x = .done y evs)
    (hne : y.cstate ≠ x.cstate) :
    (i.opcode = 0x1 ∧ (y.cstate = .configured ∨ y.cstate = .uninitialized)) ∨
      (i.opcode = 0x3 ∧ x.cstate = .configured ∧ y.cstate = .running) ∨
      (i.opcode = 0x5 ∧ x.cstate = .running ∧ y.cstate = .uninitialized) := by
  cases i with
  | init => exact .inl ⟨rfl, Controller.initialise_cstate_cases h hne⟩
  | start => exact .inr (.inl ⟨rfl, Controller.startUp_cstate_cases h hne⟩)
  | stop => exact .inr (.inr ⟨rfl, Controller.shutDown_cstate_cases h hne⟩)
  | addFilter => exact absurd ((x.addFilter_keeps_cstate p _ _ _ _).of_done h) hne
  | send => exact absurd ((x.submit_keeps_cstate p _ _ _).of_done h) hne
  | regRxCb => exact absurd ((x.registerRx_keeps_cstate _ _).of_done h) hne
  | regErrCb | regHpCb =>
    cases h
    exact absurd rfl hne
  | pollRx => exact absurd ((x.pollReceive_keeps_cstate p _ _).of_done h) hne
  | chanDeq => exact absurd (x.dequeue_keeps_cstate.of_done h) hne
  | busRx | txXmit | irqDispatch | busStatus | tick =>
    exact absurd (Controller.cstate_eq_of_config ((localBody_keeps_config p x rfl).of_done h)) hne

end

/-! ### Instances that are not Running (43_controller.md R112 (b)) -/

section
variable {x : Controller} (h : x.cstate ≠ .running)
include h

theorem stateError_of_not_running : stateError x.cstate = .notInitialized ∨ stateError x.cstate = .notStarted := by
  cases hc : x.cstate with
  | uninitialized => exact .inl rfl
  | configured => exact .inr rfl
  | running => exact absurd hc h

theorem Controller.submit_of_not_running (p : Params) (id : BitVec 16) (length : BitVec 8) (data : BitVec 64) :
    x.submit p id length data = x.raise 0x4 (stateError x.cstate) :=
  if_pos h

theorem Controller.pollReceive_of_not_running (p : Params) (queueId : BitVec 8) (timeout : BitVec 32) :
    x.pollReceive p queueId timeout = x.raise 0x9 (stateError x.cstate) :=
  if_pos h

theorem Controller.irqEnabled_of_not_running (m : Reasons) : x.irqEnabled m = false :=
  Bool.eq_false_iff.mpr fun he => h ((x.irqEnabled_iff m).mp he).1

end

theorem State.onCtrl_known {s : State} {inst : InstId} {x : Controller} (hx : s.ctrl? inst = some x)
    (f : Controller → Bool) : s.onCtrl inst f = f x := by
  rw [State.onCtrl, hx]

/-- Settles O18: (a) and (c) by what a scheduled step can do to one instance, (b) by the first test of each command. -/
theorem lifecycleLaws : Obligations.LifecycleLaws := by
  unfold Obligations.LifecycleLaws
  constructor
  · intro s t slot rest k x y hsched hstep hx hy
    obtain ⟨-, ⟨hnil, -⟩ | ⟨slot', rest', hs, hrun⟩⟩ := step_next_cases hstep
    · cases hsched.symm.trans hnil
    cases hsched.symm.trans hs
    have hcases := runSlot_ctrl_cases hrun hx hy
    refine ⟨fun hne => ?_, fun hevent => ?_⟩
    · rcases hcases with ⟨w, i, inst, evs, hslot, hd, hi, hk, hbody⟩ | h
      · exact ⟨w, i, inst, hslot, hd, hi, hk, localBody_cstate_cases hbody hne⟩
      · exact absurd (Controller.cstate_eq_of_config h.config_eq) hne
    · have hconfig : y.config = x.config := by
        rcases hcases with ⟨w, i, inst, evs, hslot, hd, -, -, hbody⟩ | h
        · exact (localBody_keeps_config _ x (hevent w i hslot hd)).of_done hbody
        · exact h.config_eq
      simpa only [Controller.config, Prod.mk.injEq] using hconfig
  · intro s inst x hx hrun
    refine ⟨fun id len d => ⟨_, stateError_of_not_running hrun, ?_⟩, fun q n => ⟨_, stateError_of_not_running hrun, ?_⟩,
      fun m => ⟨?_, ?_⟩⟩
    · rw [← State.settle_raise hx, ← Controller.submit_of_not_running hrun s.params id len d]
      exact exec_known rfl hx
    · rw [← State.settle_raise hx, ← Controller.pollReceive_of_not_running hrun s.params q n]
      exact exec_known rfl hx
    · rw [State.enables, State.onCtrl_known hx, Controller.irqEnabled_of_not_running hrun, Bool.and_false]
    · rw [exec_known rfl hx, localBody, Controller.irqEnabled_of_not_running hrun]
      exact State.settle_unchanged hx

end Sys2Proof.Machine

/-! PROOFS of the family 44_datapath.md: SEND and TX_XMIT, the acceptance of a received frame, the extraction and the polled
receive, TICK, and the two laws that relate these paths. -/

namespace Sys2Proof.Machine

/-! ### SEND (44_datapath.md R113) -/

section
variable {p : Params} {x : Controller} {id : BitVec 16} {len : BitVec 8}

theorem Controller.submit_of_badFrame (hrun : x.cstate = .running) (hbad : 8 < len.toNat ∨ 0x7FF < id.toNat)
    (data : BitVec 64) : x.submit p id len data = x.raise 0x4 .invalidArgument := by
  have hinvalid : validFrame id.toNat len.toNat = false := by
    simp only [validFrame, Bool.and_eq_false_iff, decide_eq_false_iff_not]
    omega
  rw [Controller.submit, if_neg (not_not.mpr hrun), if_pos hinvalid]

variable (hlen : len.toNat ≤ 8) (hid : id.toNat ≤ 0x7FF)
include hlen hid

theorem validFrame_of_le : validFrame id.toNat len.toNat = true := by
  simp [validFrame, hlen, hid]

theorem Controller.submit_of_full (hrun : x.cstate = .running) (hfull : x.txq.length = p.txqDepth) (data : BitVec 64) :
    x.submit p id len data = x.raise 0x4 .busy := by
  rw [Controller.submit, if_neg (not_not.mpr hrun), if_neg (by simp [validFrame_of_le hlen hid]), if_pos hfull]

theorem Controller.submit_of_room (hrun : x.cstate = .running) (hroom : x.txq.length ≠ p.txqDepth) (data : BitVec 64) :
    x.submit p id len data = .done { x with
      txq := x.txq ++ [encodeElem (id.setWidth 11) (lenToDlc len.toNat) (payload data len.toNat)] } [.resp 0x4 .ok] := by
  rw [Controller.submit, if_neg (not_not.mpr hrun), if_neg (by simp [validFrame_of_le hlen hid]), if_neg hroom]

end

theorem exec_send {s : State} {inst : InstId} {x : Controller} (hx : s.ctrl? inst = some x) (id : BitVec 16)
    (len : BitVec 8) (data : BitVec 64) :
    exec (.send inst id len data) s = s.settle inst (x.submit s.params id len data) :=
  exec_known rfl hx

/-- Settles O40: the common tests, then the branches of R113 in its order. -/
theorem sendQueuesFrame : Obligations.SendQueuesFrame := by
  unfold Obligations.SendQueuesFrame
  refine ⟨malformedAnswered_of_host (by decide) (by decide) fun w hop hbits hbad => hbad (slice_eq_zero hbits hop 0 32),
    fun i l d => unknownAnswered_of_host (fun _ => rfl) (fun _ => rfl) (fun _ => rfl), ?_⟩
  intro s inst x id len data hx
  rw [exec_send hx]
  refine ⟨fun hc => ?_, fun hc => ?_, fun hrun hbad => ?_, fun hrun hlen hid hfull => ?_, fun hrun hlen hid hroom => ?_⟩
  · rw [Controller.submit_of_not_running (by simp [hc]), State.settle_raise hx, hc]
    rfl
  · rw [Controller.submit_of_not_running (by simp [hc]), State.settle_raise hx, hc]
    rfl
  · rw [Controller.submit_of_badFrame hrun hbad, State.settle_raise hx]
  · rw [Controller.submit_of_full hlen hid hrun hfull, State.settle_raise hx]
  · rw [Controller.submit_of_room hlen hid hrun hroom, State.settle_done]
    rfl

/-! ### TX_XMIT (44_datapath.md R114) -/

theorem Controller.txEnabled_iff {x : Controller} : x.txEnabled = true ↔ x.cstate = .running ∧ x.txq ≠ [] := by
  rw [Controller.txEnabled, Bool.and_eq_true, decide_eq_true_iff, decide_eq_true_iff]

/-- The position drawn is one of a queued element. -/
theorem txPosition_lt (p : Params) (inst : InstId) (draws : Nat) {len : Nat} (h : 0 < len) :
    txPosition p inst draws len < len := by
  unfold txPosition
  split
  · exact h
  · exact Nat.mod_lt _ h

theorem txPosition_of_fifo {p : Params} (h : p.txOrder = .fifo) (inst : InstId) (draws len : Nat) :
    txPosition p inst draws len = 0 := by
  rw [txPosition, h]

/-- A queued element stands where the transmit engine of the instance looks. -/
theorem Controller.exists_txPosition {x : Controller} (h : x.txq ≠ []) (p : Params) (inst : InstId) :
    ∃ e, x.txq[txPosition p inst x.draws x.txq.length]? = some e :=
  ⟨_, List.getElem?_eq_getElem (txPosition_lt p inst x.draws (List.length_pos_iff.mpr h))⟩

theorem Controller.takeTx_of_fifo {p : Params} (h : p.txOrder = .fifo) (k : Nat) (x : Controller) :
    x.takeTx p k = { x with txq := x.txq.eraseIdx k } := by
  rw [Controller.takeTx, nextDraw, h]

theorem Controller.takeTx_of_any {p : Params} (h : p.txOrder = .any) (k : Nat) (x : Controller) :
    x.takeTx p k = { x with txq := x.txq.eraseIdx k, draws := x.draws + 1 } := by
  rw [Controller.takeTx, nextDraw, h]

/-- The filter does not look at what is queued to be sent. -/
theorem Controller.takeTx_classify (p : Params) (k : Nat) (x : Controller) (id : CanId) :
    (x.takeTx p k).classify id = x.classify id := rfl

section
variable {s : State} {inst : InstId} {x : Controller}

theorem exec_txXmit_of_disabled (hx : s.ctrl? inst = some x) (h : x.cstate ≠ .running ∨ x.txq = []) :
    exec (.txXmit inst) s = .next s := by
  have hoff : ¬ x.txEnabled = true := fun hen => by
    obtain ⟨hrun, hq⟩ := Controller.txEnabled_iff.mp hen
    exact h.elim (absurd hrun) hq
  rw [exec_known rfl hx, localBody, if_neg hoff, State.settle_unchanged hx]

variable {k : Nat} {e : Elem} (hx : s.ctrl? inst = some x) (hrun : x.cstate = .running)
  (hk : txPosition s.params inst x.draws x.txq.length = k) (he : x.txq[k]? = some e)
include hx hrun hk he

theorem exec_txXmit_of_element :
    exec (.txXmit inst) s = s.settle inst (if isLoopback s.params inst then
        (x.takeTx s.params k).acceptFrame s.params (decodeElem e).1 (decodeElem e).2.1 (decodeElem e).2.2
      else .done (x.takeTx s.params k) [.busTx (decodeElem e).1 (decodeElem e).2.1 (decodeElem e).2.2]) := by
  have hen : x.txEnabled = true := Controller.txEnabled_iff.mpr ⟨hrun, fun hnil => by simp [hnil] at he⟩
  rw [exec_known rfl hx, localBody, if_pos hen]
  simp only [Controller.transmit, hk, he]

/-- Without loopback the element leaves towards the bus. -/
theorem exec_txXmit_of_bus (hbus : isLoopback s.params inst = false) :
    exec (.txXmit inst) s = .next (s.commit inst (x.takeTx s.params k)
      [.busTx (decodeElem e).1 (decodeElem e).2.1 (decodeElem e).2.2]) := by
  rw [exec_txXmit_of_element hx hrun hk he, if_neg (by simp [hbus]), State.settle_done]

/-- With loopback the element goes through the instance's own filter. -/
theorem exec_txXmit_of_loopback (hloop : isLoopback s.params inst = true) :
    exec (.txXmit inst) s = s.settle inst
      ((x.takeTx s.params k).acceptFrame s.params (decodeElem e).1 (decodeElem e).2.1 (decodeElem e).2.2) := by
  rw [exec_txXmit_of_element hx hrun hk he, if_pos hloop]

end

/-- Settles O41: not enabled, with the head, and with the element at the position drawn. -/
theorem transmitSendsOneElement : Obligations.TransmitSendsOneElement := by
  unfold Obligations.TransmitSendsOneElement
  intro s inst x hx
  refine ⟨exec_txXmit_of_disabled hx, fun e rest hrun hq hfifo => ?_, fun hrun hq hany k hk => ?_⟩
  · have hhead : x.txq[0]? = some e := by rw [hq, List.getElem?_cons_zero]
    have htake : x.takeTx s.params 0 = { x with txq := rest } := by
      rw [Controller.takeTx_of_fifo hfifo, hq, List.eraseIdx_cons_zero]
    have hpos := txPosition_of_fifo hfifo inst x.draws x.txq.length
    rw [← htake]
    refine ⟨exec_txXmit_of_bus hx hrun hpos hhead, fun y hloop hy => ?_⟩
    rw [exec_txXmit_of_loopback hx hrun hpos hhead hloop, hy, State.settle_done]
  · obtain ⟨e, he⟩ := Controller.exists_txPosition hq s.params inst
    rw [← hk] at he
    rw [← Controller.takeTx_of_any hany]
    refine ⟨e, he, exec_txXmit_of_bus hx hrun hk.symm he, fun y hloop hy => ?_⟩
    rw [exec_txXmit_of_loopback hx hrun hk.symm he hloop, hy, State.settle_done]

/-! ### The acceptance of a frame (44_datapath.md R115, R116) -/

section
variable {p : Params} {x : Controller} {id : CanId} {dlc : Dlc} {data : List Byte} {q : QueueId}

theorem Controller.storeFrame_of_room (h : (x.rxq q).length < p.rxqDepth) :
    x.storeFrame p id dlc data q = (x.setRxq (x.rxq q ++ [encodeElem id dlc data]) q, true) :=
  if_pos h

theorem Controller.storeFrame_of_full (h : p.rxqDepth ≤ (x.rxq q).length) :
    x.storeFrame p id dlc data q = (x.markLost q, false) :=
  if_neg (Nat.not_lt.mpr h)

theorem Controller.acceptFrame_of_verdict {hp : Bool} {slot : Option Nat}
    (h : x.classify id = .decided (.store q hp) slot) :
    x.acceptFrame p id dlc data = .done (x.stored p id dlc data q (if hp then slot else none)) [] := by
  rw [Controller.acceptFrame, h]
  cases hp <;> cases slot <;> rfl

/-- A store does not touch the latched reasons, so HP_MSG joins those the instance had (R116). -/
theorem Controller.stored_highPriority (k : Nat) :
    x.stored p id dlc data q (some k) = { (x.storeFrame p id dlc data q).1 with
      hpStatus := ⟨true, k, q, (x.storeFrame p id dlc data q).2⟩, irqPending := x.irqPending ||| 0x04 } := by
  have hpending : (x.storeFrame p id dlc data q).1.irqPending = x.irqPending := by
    rcases Controller.storeFrame_cases p id dlc data q x with ⟨-, he⟩ | ⟨-, he⟩ <;> simp [he]
  rw [Controller.stored, hpending]

/-- With the invariants the filter decides every frame of a Running instance, and the instance becomes what the verdict says. -/
theorem Controller.Ok.exists_receives (h : x.Ok p) (hrun : x.cstate = .running) (id : CanId) (dlc : Dlc)
    (data : List Byte) : ∃ y, x.Receives p id dlc data y ∧ x.acceptFrame p id dlc data = .done y [] := by
  rcases Controller.acceptFrame_cases p id dlc data x with ⟨hc, -⟩ | ⟨slot, hc, he⟩ | ⟨q, hp, slot, hc, he⟩
  · exact absurd hc (h.classify_ne_corrupt hrun id)
  · exact ⟨x, .inl ⟨slot, hc, rfl⟩, he⟩
  · refine ⟨_, .inr ?_, he⟩
    cases hp with
    | false => exact .inl ⟨q, slot, hc, rfl⟩
    | true =>
      obtain ⟨k, rfl⟩ := Controller.classify_highPriority hc
      exact .inr ⟨q, k, hc, Controller.stored_highPriority k⟩

end

/-- Settles O43: each verdict with room in its queue and without. -/
theorem acceptFrameStores : Obligations.AcceptFrameStores := by
  unfold Obligations.AcceptFrameStores
  intro p x id dlc data slot
  refine ⟨Controller.acceptFrame_of_discard, fun q hc => Controller.acceptFrame_of_store hc, fun q hc hfull => ?_,
    fun q k hc hslot hroom => ?_, fun q k hc hslot hfull => ?_⟩ <;> rw [Controller.acceptFrame_of_verdict hc]
  · rw [if_neg (by decide), Controller.stored, Controller.storeFrame_of_full hfull]
  · rw [if_pos rfl, hslot, Controller.stored_highPriority, Controller.storeFrame_of_room hroom]
  · rw [if_pos rfl, hslot, Controller.stored_highPriority, Controller.storeFrame_of_full hfull]

/-- Settles O44: from the bus the instance itself goes through its filter, on loopback the instance that has given up the
element; both have the invariants. -/
theorem receivedFrameCompletes : Obligations.ReceivedFrameCompletes := by
  unfold Obligations.ReceivedFrameCompletes
  intro s inst x hs hx hrun
  have hok : x.Ok s.params := hs.ctrl?_ok hx
  refine ⟨fun id dlc data hbus hid hdlc => ?_, fun hloop hq k hk => ⟨fun hfifo => hk.trans (txPosition_of_fifo hfifo ..), ?_⟩⟩
  · obtain ⟨y, hy, haccept⟩ := hok.exists_receives hrun (id.setWidth 11) (dlc.setWidth 4)
      (payload data (dlcToLen (dlc.setWidth 4)))
    refine ⟨y, hy, ?_⟩
    rw [exec_busRx_of_running hx hrun hbus hid hdlc, haccept, State.settle_done]
  · obtain ⟨e, he⟩ := Controller.exists_txPosition hq s.params inst
    rw [← hk] at he
    obtain ⟨y, hy, haccept⟩ := (hok.takeTx k).exists_receives hrun (decodeElem e).1 (decodeElem e).2.1 (decodeElem e).2.2
    refine ⟨e, y, he, hy, ?_⟩
    rw [exec_txXmit_of_loopback hx hrun hk.symm he hloop, haccept, State.settle_done]

/-- Settles O42: the three reasons for which nothing happens, and the filter's answer for a data frame. -/
theorem busReceive : Obligations.BusReceive := by
  unfold Obligations.BusReceive
  intro s inst x id dlc data rtr hx hid hdlc
  refine ⟨fun hoff => ?_, fun y hrun hbus hrtr hy => ?_⟩
  · have hformat : busRxFormat id dlc = true := by simp [busRxFormat, hid, hdlc]
    rw [exec_known rfl hx, localBody, if_pos hformat, if_pos hoff, State.settle_unchanged hx]
  · subst hrtr
    rw [exec_busRx_of_running hx hrun hbus hid hdlc]
    exact congrArg (s.settle inst) hy

/-! ### The extraction (44_datapath.md R117, 45_channel.md R123) -/

/-- Settles O46: by the callback that is registered. -/
theorem extractOneFrame : Obligations.ExtractOneFrame := by
  unfold Obligations.ExtractOneFrame
  intro p x q e rest hq
  rw [Controller.extractOne_cons hq]
  refine ⟨fun hnone => ?_, fun h hcb hne => ?_, fun hcb => ?_⟩
  · rw [hnone]
  · rw [hcb]
    exact congrArg (·, _) (if_neg hne)
  · rw [hcb]
    rfl

/-! ### POLL_RX (44_datapath.md R118) -/

theorem QueueId.reason_eq_twoPow (q : QueueId) : q.reason = BitVec.twoPow 6 q.code := by
  cases q <;> rfl

/-- The receive interrupt of a queue is enabled by the queue's own bit (30_encoding.md R56). -/
theorem Controller.rxIrqEnabled_eq (x : Controller) (q : QueueId) : x.rxIrqEnabled q = x.irqEnable.getLsbD q.code := by
  have hbit : BitVec.twoPow 6 q.code ≠ 0#6 := by cases q <;> decide
  rw [Controller.rxIrqEnabled, QueueId.reason_eq_twoPow, BitVec.and_twoPow]
  cases x.irqEnable.getLsbD q.code <;> simp [hbit]

section
variable {p : Params} {x : Controller} {queueId : BitVec 8} {timeout : BitVec 32} (hrun : x.cstate = .running)
include hrun

theorem Controller.pollReceive_of_badQueue (hq : QueueId.ofCode queueId = none) :
    x.pollReceive p queueId timeout = x.raise 0x9 .invalidArgument := by
  rw [Controller.pollReceive, if_neg (not_not.mpr hrun), hq]

variable {q : QueueId} (hq : QueueId.ofCode queueId = some q)
include hq

theorem Controller.pollReceive_of_held (hpoll : x.poll ≠ none) :
    x.pollReceive p queueId timeout = x.raise 0x9 .busy := by
  simp only [Controller.pollReceive, if_neg (not_not.mpr hrun), hq, if_pos hpoll]

variable (hpoll : x.poll = none)
include hpoll

theorem Controller.pollReceive_of_interrupt (hirq : x.rxIrqEnabled q = true) :
    x.pollReceive p queueId timeout = .refused .pollOnInterruptQueue := by
  simp only [Controller.pollReceive, if_neg (not_not.mpr hrun), hq, if_neg (not_not.mpr hpoll), if_pos hirq]

variable (hirq : x.rxIrqEnabled q = false)
include hirq

theorem Controller.pollReceive_of_frame (hframe : x.rxq q ≠ []) :
    x.pollReceive p queueId timeout =
      .done (x.extractOne p q).1 ((x.extractOne p q).2 ++ [.resp 0x9 .ok]) := by
  simp only [Controller.pollReceive, if_neg (not_not.mpr hrun), hq, if_neg (not_not.mpr hpoll),
    if_neg (Bool.eq_false_iff.mp hirq), if_pos hframe]

/-- On an empty queue the poll ends at once or is held, as its timeout says. -/
theorem Controller.pollReceive_of_empty (hempty : x.rxq q = []) :
    x.pollReceive p queueId timeout = if timeout = 0 then x.raise 0x9 .timeout
      else .done { x with poll := some ⟨q, timeout.toNat⟩ } [] := by
  simp only [Controller.pollReceive, if_neg (not_not.mpr hrun), hq, if_neg (not_not.mpr hpoll),
    if_neg (Bool.eq_false_iff.mp hirq), if_neg (not_not.mpr hempty)]

end

theorem exec_pollRx {s : State} {inst : InstId} {x : Controller} (hx : s.ctrl? inst = some x) (queueId : BitVec 8)
    (timeout : BitVec 32) :
    exec (.pollRx inst queueId timeout) s = s.settle inst (x.pollReceive s.params queueId timeout) :=
  exec_known rfl hx

/-- Settles O47: the common tests, then the branches of R118 in its order. -/
theorem pollReceive : Obligations.PollReceive := by
  unfold Obligations.PollReceive
  refine ⟨malformedAnswered_of_host (by decide) (by decide) fun w hop hbits hbad => hbad (slice_eq_zero hbits hop 0 80),
    fun q n => unknownAnswered_of_host (fun _ => rfl) (fun _ => rfl) (fun _ => rfl), ?_⟩
  intro s inst x qi timeout hx
  rw [exec_pollRx hx]
  refine ⟨fun hc => ?_, fun hc => ?_, fun hrun hbad => ?_, fun q hrun hcode => ?_⟩
  · rw [Controller.pollReceive_of_not_running (by simp [hc]), State.settle_raise hx, hc]
    rfl
  · rw [Controller.pollReceive_of_not_running (by simp [hc]), State.settle_raise hx, hc]
    rfl
  · rw [Controller.pollReceive_of_badQueue hrun (QueueId.ofCode_eq_none hbad), State.settle_raise hx]
  have hq : QueueId.ofCode qi = some q := QueueId.ofCode_eq_some hcode
  rw [← Controller.rxIrqEnabled_eq]
  refine ⟨fun hpoll => ?_, fun hpoll hirq => ?_, fun hpoll hirq hframe => ?_, fun hpoll hirq hempty htime => ?_,
    fun hpoll hirq hempty htime => ?_⟩
  · rw [Controller.pollReceive_of_held hrun hq hpoll, State.settle_raise hx]
  · rw [Controller.pollReceive_of_interrupt hrun hq hpoll hirq, State.settle_refused]
  · rw [Controller.pollReceive_of_frame hrun hq hpoll hirq hframe, State.settle_done]
  · rw [Controller.pollReceive_of_empty hrun hq hpoll hirq hempty, if_pos htime, State.settle_raise hx]
  · rw [Controller.pollReceive_of_empty hrun hq hpoll hirq hempty, if_neg htime, State.settle_done]

/-! ### The completion of a held poll (44_datapath.md R119) -/

/-- Settles O48: with a frame the poll is finished, and otherwise the completion is not enabled. -/
theorem pollCompletion : Obligations.PollCompletion := by
  unfold Obligations.PollCompletion
  intro s inst x rest hfault hsched hx
  have hstep : step s = .next (execPollDone inst { s with schedule := rest }) := by
    simp [step, State.fetch, hfault, hsched, runSlot]
  have hx' : State.ctrl? { s with schedule := rest } inst = some x := hx
  rw [hstep]
  refine ⟨fun h hpoll hframe => ?_, fun hoff => ?_⟩
  · simp only [execPollDone, hx', hpoll, if_neg hframe]
    rfl
  · rcases execPollDone_cases inst { s with schedule := rest } with he | ⟨z, h, hz, hpoll, hframe, -⟩
    · rw [he]
    · cases hx'.symm.trans hz
      exact absurd (hoff h hpoll) hframe

/-! ### TICK (44_datapath.md R120) -/

section
variable (p : Params) {x : Controller}

theorem Controller.tick_of_idle (hpoll : x.poll = none) : x.tick p = (x, []) := by
  rw [Controller.tick, hpoll]

variable {h : Poll} (hpoll : x.poll = some h)
include hpoll

theorem Controller.tick_of_waiting (hwait : 1 < h.remaining) :
    x.tick p = ({ x with poll := some ⟨h.queue, h.remaining - 1⟩ }, []) := by
  simp only [Controller.tick, hpoll, if_pos hwait]

theorem Controller.tick_of_arrival (hlast : h.remaining ≤ 1) (hframe : x.rxq h.queue ≠ []) :
    x.tick p = x.finishPoll p h.queue := by
  simp only [Controller.tick, hpoll, if_neg (Nat.not_lt.mpr hlast), if_pos hframe]

theorem Controller.tick_of_expiry (hlast : h.remaining ≤ 1) (hempty : x.rxq h.queue = []) :
    x.tick p = ({ x with poll := none }, [.pollDone .timeout]) := by
  simp only [Controller.tick, hpoll, if_neg (Nat.not_lt.mpr hlast), if_neg (not_not.mpr hempty)]

end

/-- The events of the list that belong to one instance. -/
def eventsOf (inst : InstId) (l : List TraceEntry) : List Event :=
  (l.filter fun t => t.inst = inst).map TraceEntry.event

theorem State.traceOf_eq_eventsOf (s : State) (inst : InstId) : s.traceOf inst = eventsOf inst s.trace := rfl

theorem eventsOf_append (inst : InstId) (l l' : List TraceEntry) :
    eventsOf inst (l ++ l') = eventsOf inst l ++ eventsOf inst l' := by
  simp [eventsOf]

theorem eventsOf_tagged (inst j : InstId) (evs : List Event) :
    eventsOf inst (evs.map fun e => ⟨j, e⟩) = if j = inst then evs else [] := by
  split
  · next h => simp [eventsOf, h, List.filter_map, Function.comp_def]
  · next h => simp [eventsOf, h, List.filter_map, Function.comp_def]

/-- An instance below those visited gets no event. -/
theorem eventsOf_tickFrom_of_lt (p : Params) (inst : InstId) (l : List Controller) : ∀ n : Nat, inst.toNat < n →
    n + l.length ≤ 16 → eventsOf inst (tickFrom p n l).2 = [] := by
  induction l with
  | nil => intro n _ _; rfl
  | cons x xs ih =>
    intro n hn hroom
    rw [List.length_cons] at hroom
    have htag : BitVec.ofNat 4 n ≠ inst := fun h => by
      have := congrArg BitVec.toNat h
      rw [BitVec.toNat_ofNat] at this
      omega
    rw [tickFrom, eventsOf_append, eventsOf_tagged, if_neg htag, ih (n + 1) (by omega) (by omega), List.append_nil]

/-- An instance that is visited gets the events of its own tick. -/
theorem eventsOf_tickFrom (p : Params) (inst : InstId) (l : List Controller) : ∀ {n k : Nat} {x : Controller},
    l[k]? = some x → inst.toNat = n + k → n + l.length ≤ 16 → eventsOf inst (tickFrom p n l).2 = (x.tick p).2 := by
  induction l with
  | nil => intro n k x hx; cases hx
  | cons y ys ih =>
    intro n k x hx hk hroom
    rw [List.length_cons] at hroom
    have htag : (BitVec.ofNat 4 n).toNat = n := Nat.mod_eq_of_lt (by omega)
    rw [tickFrom, eventsOf_append, eventsOf_tagged]
    cases k with
    | zero =>
      cases Option.some.inj hx
      have hinst : BitVec.ofNat 4 n = inst := BitVec.eq_of_toNat_eq (by omega)
      rw [if_pos hinst, eventsOf_tickFrom_of_lt p inst ys (n + 1) (by omega) (by omega), List.append_nil]
    | succ k =>
      have hinst : BitVec.ofNat 4 n ≠ inst := fun h => by
        have := congrArg BitVec.toNat h
        omega
      rw [if_neg hinst, List.nil_append]
      exact ih hx (by omega) (by omega)

/-- The block after a TICK. -/
def State.ticked (s : State) : State :=
  { s with ctrls := (tickFrom s.params 0 s.ctrls).1, trace := s.trace ++ (tickFrom s.params 0 s.ctrls).2 }

theorem exec_tick (s : State) : exec .tick s = .next s.ticked := rfl

theorem State.ticked_length (s : State) : s.ticked.ctrls.length = s.ctrls.length := tickFrom_length _ _ _

section
variable {s : State} {inst : InstId} {x : Controller} (hx : s.ctrl? inst = some x)
include hx

theorem State.ctrl?_ticked : s.ticked.ctrl? inst = some (x.tick s.params).1 := by
  have hx' : s.ctrls[inst.toNat]? = some x := hx
  rw [State.ctrl?, State.ticked, tickFrom_getElem?, hx', Option.map_some]

theorem State.traceOf_ticked (hlen : s.ctrls.length ≤ 16) :
    s.ticked.traceOf inst = s.traceOf inst ++ (x.tick s.params).2 := by
  rw [State.traceOf_eq_eventsOf, State.ticked, eventsOf_append,
    eventsOf_tickFrom s.params inst s.ctrls hx (Nat.zero_add _).symm (by omega), State.traceOf_eq_eventsOf]

end

/-- Settles O49: what TICK does to an instance is the instance's own tick, case by case. -/
theorem tickAdvancesPolls : Obligations.TickAdvancesPolls := by
  unfold Obligations.TickAdvancesPolls
  intro s hlen
  refine ⟨s.ticked, exec_tick s, rfl, rfl, rfl, s.ticked_length, fun inst x hx => ?_⟩
  rw [State.ctrl?_ticked hx, State.traceOf_ticked hx hlen]
  refine ⟨fun hpoll => ?_, fun h hpoll hwait => ?_, fun h hpoll hlast hframe => ?_, fun h hpoll hlast hempty => ?_⟩
  · rw [Controller.tick_of_idle _ hpoll]
    exact ⟨rfl, List.append_nil _⟩
  · rw [Controller.tick_of_waiting _ hpoll hwait]
    exact ⟨rfl, List.append_nil _⟩
  · rw [Controller.tick_of_arrival _ hpoll hlast hframe]
    exact ⟨rfl, rfl⟩
  · rw [Controller.tick_of_expiry _ hpoll hlast hempty]
    exact ⟨rfl, rfl⟩

/-- While more ticks are left than pass, a held poll only counts down. -/
theorem execAll_tick_of_waiting {inst : InstId} {q : QueueId} (r m : Nat) : ∀ {s : State} {x : Controller},
    s.ctrls.length ≤ 16 → s.ctrl? inst = some x → x.poll = some ⟨q, r + 1 + m⟩ →
    ∃ t, execAll (List.replicate m .tick) s = .next t ∧ t.ctrls.length = s.ctrls.length ∧
      t.ctrl? inst = some { x with poll := some ⟨q, r + 1⟩ } ∧ t.traceOf inst = s.traceOf inst := by
  induction m with
  | zero => exact fun {s x} _ hx hpoll => ⟨s, rfl, rfl, by rw [hx, ← hpoll], rfl⟩
  | succ m ih =>
    intro s x hlen hx hpoll
    have htick := Controller.tick_of_waiting s.params hpoll (by dsimp only; omega)
    have hx' := State.ctrl?_ticked hx
    rw [htick] at hx'
    obtain ⟨t, hexec, hlen', hctrl, htrace⟩ := ih (s.ticked_length.trans_le hlen) hx' rfl
    refine ⟨t, ?_, hlen'.trans s.ticked_length, hctrl, ?_⟩
    · rw [List.replicate_succ, execAll_cons (exec_tick s), hexec]
    · rw [htrace, State.traceOf_ticked hx hlen, htick, List.append_nil]

/-- Settles O50: n ticks count the poll down to its last tick, which ends it. -/
theorem pollExpiresAtNthTick : Obligations.PollExpiresAtNthTick := by
  unfold Obligations.PollExpiresAtNthTick
  intro s inst x q n hlen hx hpoll hempty
  refine ⟨fun m hm => ?_, ?_⟩
  · have hleft : n + 1 = n - m + 1 + m := by omega
    obtain ⟨t, hexec, -, hctrl, htrace⟩ := execAll_tick_of_waiting (n - m) m hlen hx (hleft ▸ hpoll)
    exact ⟨t, hexec, by rw [hctrl, Nat.sub_add_comm hm], htrace⟩
  · obtain ⟨t, hexec, hlen', hctrl, htrace⟩ := execAll_tick_of_waiting 0 n hlen hx
      (show x.poll = some ⟨q, 0 + 1 + n⟩ by rw [hpoll, Nat.zero_add, Nat.add_comm])
    have htick := Controller.tick_of_expiry t.params (x := { x with poll := some ⟨q, 1⟩ }) rfl (Nat.le_refl 1) hempty
    refine ⟨t.ticked, ?_, ?_, ?_⟩
    · rw [List.replicate_succ', execAll_append _ hexec]
      rfl
    · rw [State.ctrl?_ticked hctrl, htick]
    · rw [State.traceOf_ticked hctrl (hlen'.trans_le hlen), htick, htrace]

/-! ### The loopback round trip (44_datapath.md R121) -/

section
variable {p : Params} {x : Controller} {id : CanId} {dlc : Dlc} {data : List Byte} {q : QueueId}

/-- A frame stored with room in its queue, with high priority or not, stands at the tail; what is queued to be sent and the
callback of the queue stay. -/
theorem Controller.stored_of_room (hroom : (x.rxq q).length < p.rxqDepth) (hp : Option Nat) :
    (x.stored p id dlc data q hp).rxq q = x.rxq q ++ [encodeElem id dlc data] ∧
      (x.stored p id dlc data q hp).txq = x.txq ∧ (x.stored p id dlc data q hp).cbRx q = x.cbRx q := by
  unfold Controller.stored
  rw [Controller.storeFrame_of_room hroom]
  cases hp <;> cases q <;> exact ⟨rfl, rfl, rfl⟩

end

/-- Settles O51: the element is the frame packed with its length code, which unpacks to the frame submitted. -/
theorem loopbackRoundTrip : Obligations.LoopbackRoundTrip := by
  unfold Obligations.LoopbackRoundTrip
  intro inst q h id len data hlen hid
  have hdata : (payload data len.toNat).length = dlcToLen (lenToDlc len.toNat) := by
    rw [payload_length, dlcToLen_lenToDlc hlen]
  refine ⟨encodeElem (id.setWidth 11) (lenToDlc len.toNat) (payload data len.toNat), fun s x hx hrun hroom => ?_,
    fun s x hp slot hx hrun hloop he hverdict hroom => ?_, fun s x rest hx hq hcb => ?_⟩
  · rw [exec_send hx, Controller.submit_of_room hlen hid hrun hroom, State.settle_done]
  · obtain ⟨hrxq, htxq, hcb⟩ := Controller.stored_of_room (x := x.takeTx s.params _) (id := id.setWidth 11)
      (dlc := lenToDlc len.toNat) (data := payload data len.toNat) hroom (if hp then slot else none)
    refine ⟨_, _, ?_, State.ctrl?_commit hx _ [], List.append_nil _, hrxq, htxq, hcb⟩
    rw [exec_txXmit_of_loopback hx hrun rfl he hloop, decodeElem_encodeElem _ hdata]
    dsimp only
    rw [Controller.acceptFrame_of_verdict ((Controller.takeTx_classify ..).trans hverdict), State.settle_done]
  · have hevent : Event.rxCb q h ⟨id.setWidth 11, len.toNat, payload data len.toNat⟩ ∈ (x.extractOne s.params q).2 := by
      rw [Controller.extractOne_cons hq, hcb, frameOfElem_encodeElem _ hlen (payload_length _ _)]
      exact List.mem_singleton_self _
    exact List.mem_append_right _ (List.mem_map_of_mem hevent)

/-! ### The polled path and the interrupt path (44_datapath.md R122) -/

/-- The block of the dispatcher that extracts from a queue (60_exceptions.md R139). -/
def QueueId.reasonClass : QueueId → ReasonClass
  | .q0 => .rxq0
  | .q1 => .rxq1

section
variable (p : Params) (q : QueueId)

/-- For a queue's reason alone the queue's block extracts once. -/
theorem Controller.dispatchBlock_own (x : Controller) :
    x.dispatchBlock p q.reason q.reasonClass = x.extractOne p q := by
  cases q <;> rfl

/-- For a queue's reason alone the other blocks do nothing. -/
theorem Controller.dispatchBlock_other {c : ReasonClass} (hc : c ≠ q.reasonClass) (x : Controller) :
    x.dispatchBlock p q.reason c = (x, []) := by
  cases q <;> cases c
  case q0.rxq0 | q1.rxq1 => exact absurd rfl hc
  all_goals rfl

theorem Controller.dispatchBlocks_other {cs : List ReasonClass} (hcs : q.reasonClass ∉ cs) (x : Controller) :
    Controller.dispatchBlocks p q.reason cs x = (x, []) := by
  induction cs with
  | nil => rfl
  | cons c cs ih =>
    obtain ⟨hc, hcs⟩ := not_or.mp (mt List.mem_cons.mpr hcs)
    simp only [Controller.dispatchBlocks, Controller.dispatchBlock_other p q (Ne.symm hc), ih hcs, List.append_nil]

/-- Blocks in any order, each at most once, extract once for a queue's reason alone. -/
theorem Controller.dispatchBlocks_own {cs : List ReasonClass} (hnodup : cs.Nodup) (hmem : q.reasonClass ∈ cs)
    (x : Controller) : Controller.dispatchBlocks p q.reason cs x = x.extractOne p q := by
  induction cs with
  | nil => cases hmem
  | cons c cs ih =>
    obtain ⟨hnot, hnodup⟩ := List.nodup_cons.mp hnodup
    by_cases hc : c = q.reasonClass
    · subst hc
      simp only [Controller.dispatchBlocks, Controller.dispatchBlock_own, Controller.dispatchBlocks_other p q hnot,
        List.append_nil]
    · have hmem' : q.reasonClass ∈ cs := List.mem_of_ne_of_mem (Ne.symm hc) hmem
      simp only [Controller.dispatchBlocks, Controller.dispatchBlock_other p q hc, ih hnodup hmem', List.nil_append]

/-- A dispatcher call for a queue's reason alone is one extraction from the queue, whatever `DISPATCH_ORDER`. -/
theorem Controller.dispatch_reason {p : Params} (horder : p.dispatchOrder.Perm [.rxq0, .rxq1, .err, .hp]) (x : Controller) :
    x.dispatch p q.reason = x.extractOne p q :=
  Controller.dispatchBlocks_own p q (horder.nodup_iff.mpr (by decide)) (horder.mem_iff.mpr (by cases q <;> decide)) x

end

/-! What an enqueue and an extraction read of an instance. -/

theorem Controller.countDrop_chan (p : Params) (x : Controller) : (x.countDrop p).chan = x.chan := by
  obtain ⟨n, he, -⟩ := Controller.countDrop_shape p x
  rw [he]

theorem Controller.countDrop_chanDrops_congr {p : Params} {x y : Controller} (h : x.chanDrops = y.chanDrops) :
    (x.countDrop p).chanDrops = (y.countDrop p).chanDrops := by
  unfold Controller.countDrop
  rw [h]
  split
  · rfl
  · exact h

/-- An extraction leaves the rest of its queue. -/
theorem Controller.rxq_extractOne (p : Params) (x : Controller) (q : QueueId) :
    (x.extractOne p q).1.rxq q = (x.rxq q).tail := by
  obtain ⟨ch, n, he, -⟩ := Controller.extractOne_shape p x q
  rw [he]
  exact x.rxq_setRxq _ q

theorem Controller.extractOne_events (p : Params) (x : Controller) (q : QueueId) :
    (x.extractOne p q).2 = x.rxEvents q := by
  obtain ⟨ch, n, he, -⟩ := Controller.extractOne_shape p x q
  rw [he]

section
variable {p : Params} {x y : Controller} (hchan : x.chan = y.chan) (hdrops : x.chanDrops = y.chanDrops)
include hchan hdrops

/-- An enqueue reads nothing of the instance but the channel and its counter (45_channel.md R124). -/
theorem Controller.chanEnqueue_congr (f : Frame) : (x.chanEnqueue p f).chan = (y.chanEnqueue p f).chan ∧
    (x.chanEnqueue p f).chanDrops = (y.chanEnqueue p f).chanDrops := by
  have hdrop : (x.countDrop p).chan = (y.countDrop p).chan ∧ (x.countDrop p).chanDrops = (y.countDrop p).chanDrops := by
    rw [Controller.countDrop_chan, Controller.countDrop_chan]
    exact ⟨hchan, Controller.countDrop_chanDrops_congr hdrops⟩
  unfold Controller.chanEnqueue
  rw [hchan]
  split
  · exact ⟨rfl, hdrops⟩
  · split
    · exact hdrop
    · split
      · exact hdrop
      · rw [Controller.countDrop_chan, Controller.countDrop_chan]
        exact ⟨rfl, Controller.countDrop_chanDrops_congr hdrops⟩

variable {q : QueueId} (hrxq : x.rxq q = y.rxq q) (hcb : x.cbRx q = y.cbRx q)
include hrxq hcb

/-- The channel after an extraction is settled by the queue, its callback, the channel and its counter. -/
theorem Controller.extractOne_chan_congr : (x.extractOne p q).1.chan = (y.extractOne p q).1.chan ∧
    (x.extractOne p q).1.chanDrops = (y.extractOne p q).1.chanDrops := by
  cases hq : y.rxq q with
  | nil =>
    rw [Controller.extractOne_nil hq, Controller.extractOne_nil (hrxq.trans hq)]
    exact ⟨hchan, hdrops⟩
  | cons e rest =>
    have hchan' : (x.setRxq rest q).chan = (y.setRxq rest q).chan := by simpa using hchan
    have hdrops' : (x.setRxq rest q).chanDrops = (y.setRxq rest q).chanDrops := by simpa using hdrops
    rw [Controller.extractOne_cons hq, Controller.extractOne_cons (hrxq.trans hq), hcb]
    cases y.cbRx q with
    | none => exact ⟨hchan', hdrops'⟩
    | some g =>
      by_cases hg : g = hChan
      · simpa only [if_pos hg] using Controller.chanEnqueue_congr hchan' hdrops' (frameOfElem e)
      · simpa only [if_neg hg] using ⟨hchan', hdrops'⟩

end

/-- Settles O52: both are one extraction, and what it does to the queue, the channel and the trace is settled by what the two
instances share. -/
theorem pollMatchesDispatch : Obligations.PollMatchesDispatch := by
  unfold Obligations.PollMatchesDispatch
  intro s i j x y q qi timeout hx hy horder hxrun hyrun hcode hpoll hirq hlines hframe hrxq hcb hchan hdrops
  have hen : y.irqEnabled q.reason = true :=
    (y.irqEnabled_iff _).mpr ⟨hyrun, by rw [hlines]; cases q <;> decide, hlines.symm⟩
  have hevents : (x.extractOne s.params q).2 = (y.extractOne s.params q).2 := by
    rw [Controller.extractOne_events, Controller.extractOne_events, Controller.rxEvents, Controller.rxEvents, hrxq, hcb]
  have hrest : (x.extractOne s.params q).1.rxq q = (y.extractOne s.params q).1.rxq q := by
    rw [Controller.rxq_extractOne, Controller.rxq_extractOne, hrxq]
  obtain ⟨hchan', hdrops'⟩ := Controller.extractOne_chan_congr (p := s.params) hchan hdrops hrxq hcb
  rw [← Controller.rxIrqEnabled_eq] at hirq
  refine ⟨_, _, (y.extractOne s.params q).2, ?_, ?_, hchan', hdrops', hrest⟩
  · rw [exec_pollRx hx, Controller.pollReceive_of_frame hxrun (QueueId.ofCode_eq_some hcode) hpoll hirq hframe,
      State.settle_done, hevents]
  · rw [exec_known rfl hy, localBody, if_pos hen, Controller.dispatch_reason q horder, State.settle_done]

end Sys2Proof.Machine

/-! PROOFS of the family 45_channel.md: the enqueue and its drop policies, the bound, the delivery once and in order, CHAN_DEQ. -/

namespace Sys2Proof.Machine

/-! ### The enqueue (45_channel.md R124) -/

/-- A drop reads and changes nothing but the counter, whatever the channel holds. -/
theorem Controller.countDrop_withChan (p : Params) (x : Controller) (l : List Elem) :
    { x with chan := l }.countDrop p = { x with chan := l, chanDrops := (x.countDrop p).chanDrops } := by
  unfold Controller.countDrop
  split <;> rfl

section
variable {p : Params} {x : Controller}

theorem Controller.chanEnqueue_of_room (h : x.chan.length < p.chanCapacity) (f : Frame) :
    x.chanEnqueue p f = { x with chan := x.chan ++ [encodeChan f] } :=
  if_pos h

section
variable (hfull : p.chanCapacity ≤ x.chan.length)
include hfull

theorem Controller.chanEnqueue_of_full_dropNewest (hpol : p.chanPolicy = .dropNewest) (f : Frame) :
    x.chanEnqueue p f = x.countDrop p := by
  rw [Controller.chanEnqueue, if_neg (Nat.not_lt.mpr hfull), hpol]

theorem Controller.chanEnqueue_of_full_dropOldest (hpol : p.chanPolicy = .dropOldest) {c : Elem} {rest : List Elem}
    (hchan : x.chan = c :: rest) (f : Frame) :
    x.chanEnqueue p f = { x with chan := rest ++ [encodeChan f], chanDrops := (x.countDrop p).chanDrops } := by
  rw [Controller.chanEnqueue, if_neg (Nat.not_lt.mpr hfull), hpol, hchan]
  exact Controller.countDrop_withChan p x _

end

end

/-- Settles O53: the two cases of R124; which entry is lost is the policy's, the count is the same. -/
theorem chanEnqueuePolicy : Obligations.ChanEnqueuePolicy := by
  unfold Obligations.ChanEnqueuePolicy
  intro p x f
  refine ⟨fun hroom => Controller.chanEnqueue_of_room hroom f, fun hfull => ?_⟩
  obtain ⟨n, hn, hcount, hkeep⟩ := Controller.countDrop_shape p x
  refine ⟨n, hcount, hkeep, fun hpol => ?_, fun c rest hpol hchan => ?_⟩
  · rw [Controller.chanEnqueue_of_full_dropNewest hfull hpol, hn]
  · rw [Controller.chanEnqueue_of_full_dropOldest hfull hpol hchan, hn]

/-! ### The bound (45_channel.md R126) -/

/-- Cutting to the first `n` before appending loses nothing of the first `n`. -/
theorem take_take_append {α : Type} (n : Nat) (l l' : List α) : (l.take n ++ l').take n = (l ++ l').take n := by
  have hlen : n - min n l.length = n - l.length := by omega
  rw [List.take_append, List.take_append, List.take_take, Nat.min_self, List.length_take, hlen]

/-- Cutting to the last `n` before appending loses nothing of the last `n`. -/
theorem rtake_rtake_append {α : Type} (n : Nat) (l l' : List α) : (l.rtake n ++ l').rtake n = (l ++ l').rtake n := by
  simp only [List.rtake, List.drop_append, List.drop_drop, List.length_append, List.length_drop]
  congr 2 <;> omega

section
variable {p : Params} {x : Controller} (hbound : x.chan.length ≤ p.chanCapacity)
include hbound

/-- With `drop_newest` an enqueue keeps the first entries that fit. -/
theorem Controller.chanEnqueue_chan_of_dropNewest (hpol : p.chanPolicy = .dropNewest) (f : Frame) :
    (x.chanEnqueue p f).chan = (x.chan ++ [encodeChan f]).take p.chanCapacity := by
  by_cases hroom : x.chan.length < p.chanCapacity
  · rw [Controller.chanEnqueue_of_room hroom, List.take_of_length_le (by simpa using hroom)]
  · have hfull : x.chan.length = p.chanCapacity := by omega
    rw [Controller.chanEnqueue_of_full_dropNewest hfull.ge hpol, Controller.countDrop_chan, List.take_left' hfull]

/-- With `drop_oldest` an enqueue keeps the last entries that fit. -/
theorem Controller.chanEnqueue_chan_of_dropOldest (hpos : 0 < p.chanCapacity) (hpol : p.chanPolicy = .dropOldest)
    (f : Frame) : (x.chanEnqueue p f).chan = (x.chan ++ [encodeChan f]).rtake p.chanCapacity := by
  by_cases hroom : x.chan.length < p.chanCapacity
  · have hfits : (x.chan ++ [encodeChan f]).length - p.chanCapacity = 0 := by simp; omega
    rw [Controller.chanEnqueue_of_room hroom, List.rtake, hfits, List.drop_zero]
  · have hfull : x.chan.length = p.chanCapacity := by omega
    obtain ⟨c, rest, hchan⟩ := List.exists_cons_of_length_pos (hfull ▸ hpos)
    have hone : (x.chan ++ [encodeChan f]).length - p.chanCapacity = 1 := by simp; omega
    rw [Controller.chanEnqueue_of_full_dropOldest hfull.ge hpol hchan, List.rtake, hone, hchan]
    rfl

/-- The channel grows by one until it is full. -/
theorem Controller.chanEnqueue_chan_length (hpos : 0 < p.chanCapacity) (f : Frame) :
    (x.chanEnqueue p f).chan.length = min (x.chan.length + 1) p.chanCapacity := by
  cases hpol : p.chanPolicy with
  | dropNewest =>
    rw [Controller.chanEnqueue_chan_of_dropNewest hbound hpol]
    simp [Nat.min_comm]
  | dropOldest =>
    rw [Controller.chanEnqueue_chan_of_dropOldest hbound hpos hpol, List.rtake]
    simp
    omega

/-- The counter, when it counts, rises by one at a full channel, saturating. -/
theorem Controller.chanEnqueue_chanDrops (hpos : 0 < p.chanCapacity) (hcount : p.countDrops = true) (f : Frame) :
    (x.chanEnqueue p f).chanDrops.toNat =
      min (x.chanDrops.toNat + (x.chan.length + 1 - p.chanCapacity)) 0xFFFFFFFF := by
  obtain ⟨hroom, hfull⟩ := chanEnqueuePolicy p x f
  by_cases h : x.chan.length < p.chanCapacity
  · rw [hroom h]
    have := x.chanDrops.isLt
    dsimp only
    omega
  · obtain ⟨n, hn, -, hnewest, holdest⟩ := hfull (Nat.not_lt.mp h)
    have hdrops : (x.chanEnqueue p f).chanDrops = n := by
      cases hpol : p.chanPolicy with
      | dropNewest => rw [hnewest hpol]
      | dropOldest =>
        obtain ⟨c, rest, hchan⟩ := List.exists_cons_of_length_pos (hpos.trans_le (Nat.not_lt.mp h))
        rw [holdest c rest hpol hchan]
    have hone : x.chan.length + 1 - p.chanCapacity = 1 := by omega
    rw [hdrops, hn hcount, hone]

end

/-- Enqueues one after the other with no dequeue between them, as R126 makes them. -/
def Controller.chanEnqueueAll (p : Params) (fs : List Frame) (x : Controller) : Controller :=
  fs.foldl (fun y f => y.chanEnqueue p f) x

section
variable {p : Params} {x : Controller}

theorem Controller.chanEnqueueAll_concat (fs : List Frame) (f : Frame) :
    x.chanEnqueueAll p (fs ++ [f]) = (x.chanEnqueueAll p fs).chanEnqueue p f :=
  List.foldl_concat ..

variable (hempty : x.chan = []) (hpos : 0 < p.chanCapacity) (fs : List Frame)
include hempty hpos

/-- The channel holds every frame enqueued, up to its capacity. -/
theorem Controller.chanEnqueueAll_chan_length :
    (x.chanEnqueueAll p fs).chan.length = min fs.length p.chanCapacity := by
  induction fs using List.reverseRecOn with
  | nil => simp [Controller.chanEnqueueAll, hempty]
  | append_singleton fs f ih =>
    rw [Controller.chanEnqueueAll_concat, Controller.chanEnqueue_chan_length (by omega) hpos, ih, List.length_append,
      List.length_singleton]
    omega

theorem Controller.chanEnqueueAll_chan_le : (x.chanEnqueueAll p fs).chan.length ≤ p.chanCapacity :=
  (Controller.chanEnqueueAll_chan_length hempty hpos fs).trans_le (Nat.min_le_right ..)

/-- With `drop_newest` the first frames that fit are held. -/
theorem Controller.chanEnqueueAll_chan_of_dropNewest (hpol : p.chanPolicy = .dropNewest) :
    (x.chanEnqueueAll p fs).chan = (fs.map encodeChan).take p.chanCapacity := by
  induction fs using List.reverseRecOn with
  | nil => exact hempty.trans List.take_nil.symm
  | append_singleton fs f ih =>
    rw [Controller.chanEnqueueAll_concat,
      Controller.chanEnqueue_chan_of_dropNewest (Controller.chanEnqueueAll_chan_le hempty hpos fs) hpol, ih,
      take_take_append, List.map_append, List.map_singleton]

/-- With `drop_oldest` the last frames that fit are held. -/
theorem Controller.chanEnqueueAll_chan_of_dropOldest (hpol : p.chanPolicy = .dropOldest) :
    (x.chanEnqueueAll p fs).chan = (fs.map encodeChan).rtake p.chanCapacity := by
  induction fs using List.reverseRecOn with
  | nil => exact hempty.trans (List.rtake_nil _).symm
  | append_singleton fs f ih =>
    rw [Controller.chanEnqueueAll_concat,
      Controller.chanEnqueue_chan_of_dropOldest (Controller.chanEnqueueAll_chan_le hempty hpos fs) hpos hpol, ih,
      rtake_rtake_append, List.map_append, List.map_singleton]

/-- The counter, when it counts, rises by the number of frames beyond the capacity, saturating. -/
theorem Controller.chanEnqueueAll_chanDrops (hcount : p.countDrops = true) :
    (x.chanEnqueueAll p fs).chanDrops.toNat =
      min (x.chanDrops.toNat + (fs.length - p.chanCapacity)) 0xFFFFFFFF := by
  induction fs using List.reverseRecOn with
  | nil =>
    have := x.chanDrops.isLt
    simp only [Controller.chanEnqueueAll, List.foldl_nil, List.length_nil]
    omega
  | append_singleton fs f ih =>
    have hlen := Controller.chanEnqueueAll_chan_length hempty hpos fs
    rw [Controller.chanEnqueueAll_concat, Controller.chanEnqueue_chanDrops (by omega) hpos hcount, ih, hlen,
      List.length_append, List.length_singleton]
    omega

end

/-- Settles O54: the bound holds after any number of enqueues, so after those of each prefix; what the channel then holds and
what is lost is the policy's. -/
theorem channelBound : Obligations.ChannelBound := by
  unfold Obligations.ChannelBound
  intro p x fs k hempty hpos hlen
  refine ⟨fun m => Controller.chanEnqueueAll_chan_le hempty hpos (fs.take m), fun hpol => ?_, fun hpol => ?_,
    fun hcount hsat => ?_⟩
  · exact (Controller.chanEnqueueAll_chan_of_dropNewest hempty hpos fs hpol).trans (List.map_take ..).symm
  · have hlast : (fs.map encodeChan).length - p.chanCapacity = k := by simp [hlen]
    rw [List.map_drop, ← hlast]
    exact Controller.chanEnqueueAll_chan_of_dropOldest hempty hpos fs hpol
  · refine (Controller.chanEnqueueAll_chanDrops hempty hpos fs hcount).trans ?_
    omega

/-! ### The dequeue (45_channel.md R125) -/

section
variable {x : Controller}

theorem Controller.takeOldest_of_nil (hchan : x.chan = []) : x.takeOldest = .done { x with rxWait := true } [] := by
  rw [Controller.takeOldest, hchan]

theorem Controller.takeOldest_of_cons {c : Elem} {rest : List Elem} (hchan : x.chan = c :: rest) :
    x.takeOldest = .done { x with chan := rest, rxWait := false } [.deq (decodeChan c), .resp 0xF .ok] := by
  rw [Controller.takeOldest, hchan]

theorem Controller.dequeue_of_waiting (hwait : x.rxWait = true) : x.dequeue = .refused .secondConsumer :=
  if_pos hwait

theorem Controller.dequeue_of_not_waiting (hwait : x.rxWait = false) : x.dequeue = x.takeOldest :=
  if_neg (Bool.eq_false_iff.mp hwait)

theorem Controller.deqReady_iff : x.deqReady = true ↔ x.rxWait = true ∧ x.chan ≠ [] := by
  rw [Controller.deqReady, Bool.and_eq_true, decide_eq_true_iff]

variable {s : State} {inst : InstId} (hx : s.ctrl? inst = some x)
include hx

theorem exec_chanDeq : exec (.chanDeq inst) s = s.settle inst x.dequeue :=
  exec_known rfl hx

theorem execDeqResume_known : execDeqResume inst s = if x.deqReady then s.settle inst x.takeOldest else .next s := by
  rw [execDeqResume, hx]

end

/-- Settles O56: the common tests, then whether the RxTask is held and whether the channel holds a frame. -/
theorem chanDeqDelivers : Obligations.ChanDeqDelivers := by
  unfold Obligations.ChanDeqDelivers
  refine ⟨malformedAnswered_of_host (by decide) (by decide) fun w hop hbits hbad => hbad (slice_eq_zero hbits hop 0 120),
    unknownAnswered_of_host (fun _ => rfl) (fun _ => rfl) (fun _ => rfl), ?_⟩
  intro s inst x hx
  rw [exec_chanDeq hx, execDeqResume_known hx]
  refine ⟨fun c rest hwait hchan => ?_, fun hwait hchan => ?_, fun hwait => ?_, fun c rest hwait hchan => ?_, fun hoff => ?_⟩
  · rw [Controller.dequeue_of_not_waiting hwait, Controller.takeOldest_of_cons hchan, State.settle_done, ← hwait]
  · rw [Controller.dequeue_of_not_waiting hwait, Controller.takeOldest_of_nil hchan, State.settle_done]
  · rw [Controller.dequeue_of_waiting hwait, State.settle_refused]
  · rw [if_pos (Controller.deqReady_iff.mpr ⟨hwait, by simp [hchan]⟩), Controller.takeOldest_of_cons hchan,
      State.settle_done]
  · refine if_neg fun hready => ?_
    obtain ⟨hwait, hchan⟩ := Controller.deqReady_iff.mp hready
    exact hoff.elim (Bool.eq_false_iff.mp · hwait) hchan

/-! ### Once, in order and whole (45_channel.md R127) -/

section
variable {p : Params} {ops : List ChanOp} {x : Controller}

/-- A run that begins with an enqueue found room for it. -/
theorem chanRun_enq_eq_some {f : Frame} {r : Controller × List Frame} (h : chanRun p (.enq f :: ops) x = some r) :
    chanRun p ops { x with chan := x.chan ++ [encodeChan f] } = some r := by
  obtain ⟨hroom, hrun⟩ := Option.ite_none_right_eq_some.mp h
  rwa [Controller.chanEnqueue_of_room hroom] at hrun

theorem chanRun_deq_of_nil (hchan : x.chan = []) : chanRun p (.deq :: ops) x = chanRun p ops { x with rxWait := true } := by
  rw [chanRun, Controller.takeOldest_of_nil hchan]
  exact congrFun Option.map_id _

theorem chanRun_deq_of_cons {c : Elem} {rest : List Elem} (hchan : x.chan = c :: rest) :
    chanRun p (.deq :: ops) x =
      (chanRun p ops { x with chan := rest, rxWait := false }).map fun r => (r.1, decodeChan c :: r.2) := by
  rw [chanRun, Controller.takeOldest_of_cons hchan]
  rfl

end

/-- What the consumer received and what is still held is what was held before the run and what the run enqueued. -/
theorem chanRun_conserves {p : Params} (ops : List ChanOp) : ∀ {x y : Controller} {out : List Frame},
    (∀ f ∈ ChanOp.enqueued ops, f.Valid) → chanRun p ops x = some (y, out) →
    out ++ y.chan.map decodeChan = x.chan.map decodeChan ++ ChanOp.enqueued ops := by
  induction ops with
  | nil =>
    intro x y out _ hrun
    cases hrun
    exact (List.append_nil _).symm
  | cons op ops ih =>
    intro x y out hvalid hrun
    cases op with
    | enq f =>
      obtain ⟨hf, hvalid⟩ := List.forall_mem_cons.mp hvalid
      rw [ih hvalid (chanRun_enq_eq_some hrun), List.map_append, List.map_singleton, decodeChan_encodeChan hf,
        List.append_assoc]
      rfl
    | deq =>
      cases hchan : x.chan with
      | nil =>
        rw [chanRun_deq_of_nil hchan] at hrun
        rw [ih hvalid hrun, ← hchan]
        rfl
      | cons c rest =>
        rw [chanRun_deq_of_cons hchan] at hrun
        obtain ⟨⟨z, out'⟩, hrun', heq⟩ := Option.map_eq_some_iff.mp hrun
        cases heq
        exact congrArg (decodeChan c :: ·) (ih hvalid hrun')

/-- Settles O55: from an empty channel nothing was held before the run. -/
theorem channelDeliversOnceInOrder : Obligations.ChannelDeliversOnceInOrder := by
  unfold Obligations.ChannelDeliversOnceInOrder
  intro p ops x y out hempty hvalid hrun
  rw [chanRun_conserves ops hvalid hrun, hempty]
  rfl

end Sys2Proof.Machine

/-! PROOFS of the family 60_exceptions.md: what a step runs, the tests every host command begins with, steps that are not enabled,
one response per command, the isolation of the instances, BUS_STATUS and IRQ_DISPATCH. -/

namespace Sys2Proof.Machine

/-! ### What a step runs (60_exceptions.md R129, R130) -/

/-- What is scheduled next is run on the rest of the schedule. -/
theorem step_of_slot {s : State} {slot : Slot} {rest : List Slot} (hfault : s.fault = false)
    (hsched : s.schedule = slot :: rest) : step s = runSlot slot { s with schedule := rest } := by
  simp [step, State.fetch, hfault, hsched]

/-- Settles O4: the fault flag, the idle block, and the three kinds of scheduled step. -/
theorem stepRunsScheduledStep : Obligations.StepRunsScheduledStep := by
  unfold Obligations.StepRunsScheduledStep
  refine fun s => ⟨fun hfault => ?_, fun hfault hidle => ?_, fun w rest i hfault hsched hd => ?_,
    fun inst rest hfault hsched => ?_, fun inst rest hfault hsched => ?_⟩
  · rw [step, if_pos hfault]
  · simp [step, State.fetch, hfault, hidle]
  · rw [step_of_word hfault hsched, runWord, hd]
  · rw [step_of_slot hfault hsched, runSlot]
  · rw [step_of_slot hfault hsched, runSlot]

/-! ### The tests every host command begins with (60_exceptions.md R132) -/

/-- A host command's word that decodes to nothing answers InvalidArgument under its own op (30_encoding.md R71 (c)). -/
theorem rejectWord_of_host {w : StepWord} {e : DecodeError} (hhost : isHostOp (opField w) = true)
    (hd : decode w = .error e) (s : State) :
    rejectWord e s = .next (s.emit (instField w) [.resp (opField w) .invalidArgument]) := by
  by_cases hop : opField w = 0
  · rw [decode, if_pos hop] at hd
    cases hd
    rw [hop]
    rfl
  · cases hbits : fixedBitsRight w with
    | false =>
      cases (decode_eq_malformed hop hhost hbits).symm.trans hd
      rfl
    | true =>
      rw [decode_of_fixedBitsRight hbits, decodeFields] at hd
      split at hd <;> cases hd
      next h0 => exact absurd (BitVec.eq_of_toNat_eq h0) hop

/-- Settles O5: a word that encodes no instruction decodes to none, and a host command looks up its instance first. -/
theorem commonTestsOfHostCommands : Obligations.CommonTestsOfHostCommands := by
  unfold Obligations.CommonTestsOfHostCommands
  refine ⟨fun s w rest hfault hsched hhost hnone => ?_, fun s i inst hhost hi hs => exec_unknown_host hi hhost hs⟩
  rw [step_of_word hfault hsched, runWord]
  cases hd : decode w with
  | ok i => exact absurd (encodeOfDecode w i hd) (hnone i)
  | error e => exact rejectWord_of_host hhost hd _

/-! ### Steps that are not enabled (60_exceptions.md R129) -/

/-- An event that is not enabled leaves the instance it names as it is. -/
theorem localBody_of_disabled {s : State} {i : Instr} {inst : InstId} {x : Controller} (hi : i.inst? = some inst)
    (hx : s.ctrl? inst = some x) (hevent : i.isHostCommand = false) (hformat : WellFormed i) (hfault : s.fault = false)
    (hoff : s.enables i = false) : localBody s.params i x = .done x [] := by
  cases i <;> cases hi <;> cases hevent
  all_goals simp only [State.enables, hfault, State.onCtrl_known hx, Bool.not_false, Bool.true_and] at hoff
  case busRx id dlc data rtr =>
    have hin : busRxFormat id dlc = true := hformat
    have hquiet : x.cstate ≠ .running ∨ isLoopback s.params inst = true ∨ rtr = 1 := by
      rw [hformat, Bool.true_and, Bool.and_eq_false_iff] at hoff
      exact hoff.imp of_decide_eq_false fun hloop => .inl (by simpa using hloop)
    rw [localBody, if_pos hin, if_pos hquiet]
  case txXmit => rw [localBody, if_neg (Bool.eq_false_iff.mp hoff)]
  case irqDispatch => rw [localBody, if_neg (Bool.eq_false_iff.mp hoff)]
  case busStatus m =>
    have hin : busStatusFormat m = true := hformat
    rw [hformat, Bool.true_and] at hoff
    rw [localBody, if_pos hin, if_neg (of_decide_eq_false hoff)]

/-- Settles O7: a disabled event is an unchanged instance, settled; a CHAN_DEQ is not enabled on a held RxTask or an empty
channel. -/
theorem disabledStepDoesNothing : Obligations.DisabledStepDoesNothing := by
  unfold Obligations.DisabledStepDoesNothing
  intro s i hfault hoff
  refine ⟨fun inst x hi hx hevent hformat => ?_, ?_⟩
  · rw [exec_known hi hx, localBody_of_disabled hi hx hevent hformat hfault hoff, State.settle_unchanged hx]
  · rintro inst rfl
    cases hx : s.ctrl? inst with
    | none => simp [State.enables, hfault, hx] at hoff
    | some x =>
      refine ⟨x, rfl, ?_⟩
      rw [exec_chanDeq hx]
      cases hwait : x.rxWait with
      | true => exact .inr ⟨rfl, by rw [Controller.dequeue_of_waiting hwait, State.settle_refused]⟩
      | false =>
        have hempty : x.chan = [] := by simpa [State.enables, hfault, hx, State.onCtrl_known hx, hwait] using hoff
        refine .inl ⟨rfl, hempty, ?_⟩
        rw [Controller.dequeue_of_not_waiting hwait, Controller.takeOldest_of_nil hempty, State.settle_done]

/-! ### The isolation of the instances (60_exceptions.md R144) -/

/-- What a step does to the block through the one instance it names: what the instance becomes, if the step changes it, the events
it emits, and whether it takes the fatal-assertion path (60_exceptions.md R135). -/
structure LocalEffect where
  ctrl   : Option Controller
  events : List Event
  fatal  : Bool

/-- The effect of a local result; a refusal has none. -/
def LocalResult.effect? : LocalResult → Option LocalEffect
  | .done x evs => some ⟨some x, evs, false⟩
  | .fatal => some ⟨none, [], true⟩
  | .refused _ => none

/-- The block after the effect of a step that names `inst`. -/
def State.affect (s : State) (inst : InstId) (e : LocalEffect) : State :=
  { s with
    ctrls := e.ctrl.elim s.ctrls (s.ctrls.set inst.toNat)
    fault := s.fault || e.fatal
    trace := s.trace ++ e.events.map fun ev => { inst := inst, event := ev } }

theorem State.affect_events (s : State) (inst : InstId) (evs : List Event) :
    s.affect inst ⟨none, evs, false⟩ = s.emit inst evs := by
  simp [State.affect, State.emit]

theorem State.settle_eq_next_iff {s t : State} {inst : InstId} {r : LocalResult} :
    s.settle inst r = .next t ↔ r.effect?.map (s.affect inst) = some t := by
  cases r <;> simp [LocalResult.effect?, State.affect, State.commit]

/-- A scheduled step that names an instance has an effect through that instance, settled by the parameters and by what the instance
is before. -/
theorem runSlot_eq_next_iff {slot : Slot} {inst : InstId} (h : slot.inst? = some inst) :
    ∃ effect : Params → Option Controller → Option LocalEffect, ∀ s t : State,
      runSlot slot s = .next t ↔ (effect s.params (s.ctrl? inst)).map (s.affect inst) = some t := by
  obtain ⟨unknown, body, hrun⟩ := runSlot_local h
  refine ⟨fun p o => o.elim (unknown.map (⟨none, ·, false⟩)) fun x => (body p x).effect?, fun s t => ?_⟩
  rw [hrun]
  cases s.ctrl? inst with
  | some x => exact State.settle_eq_next_iff
  | none => cases unknown <;> simp [State.affect_events]

theorem exec_eq_affect {s t : State} {i : Instr} {inst : InstId} (hi : i.inst? = some inst) (h : exec i s = .next t) :
    ∃ e, t = s.affect inst e := by
  rcases exec_next_cases hi h with ⟨-, -, rfl⟩ | ⟨x, hx, -⟩
  · exact ⟨_, (s.affect_events inst _).symm⟩
  · rw [exec_known hi hx, State.settle_eq_next_iff] at h
    obtain ⟨e, -, rfl⟩ := Option.map_eq_some_iff.mp h
    exact ⟨e, rfl⟩

section
variable (s : State) {inst j : InstId}

theorem State.ctrls_affect_ne {k : Nat} (hk : k ≠ inst.toNat) (e : LocalEffect) :
    (s.affect inst e).ctrls[k]? = s.ctrls[k]? := by
  obtain ⟨ctrl, evs, fatal⟩ := e
  cases ctrl with
  | none => rfl
  | some x => exact List.getElem?_set_ne (Ne.symm hk)

theorem State.ctrl?_affect_ne (hj : j ≠ inst) (e : LocalEffect) : (s.affect inst e).ctrl? j = s.ctrl? j :=
  s.ctrls_affect_ne (fun h => hj (BitVec.eq_of_toNat_eq h)) e

theorem State.traceOf_affect (inst j : InstId) (e : LocalEffect) :
    (s.affect inst e).traceOf j = s.traceOf j ++ if inst = j then e.events else [] := by
  rw [State.traceOf_eq_eventsOf, State.affect, eventsOf_append, eventsOf_tagged]
  rfl

/-- A step leaves every instance but its own, and every other trace, as it is. -/
theorem State.affect_isolated (inst : InstId) (e : LocalEffect) :
    (∀ k, k ≠ inst.toNat → (s.affect inst e).ctrls[k]? = s.ctrls[k]?) ∧
      ∀ j, j ≠ inst → (s.affect inst e).traceOf j = s.traceOf j := by
  refine ⟨fun k hk => s.ctrls_affect_ne hk e, fun j hj => ?_⟩
  rw [State.traceOf_affect, if_neg (Ne.symm hj), List.append_nil]

/-- Effects through different instances commute but for the order of the one trace. -/
theorem State.affect_comm (h : inst ≠ j) (e f : LocalEffect) :
    ((s.affect j f).affect inst e).ctrls = ((s.affect inst e).affect j f).ctrls ∧
      ((s.affect j f).affect inst e).fault = ((s.affect inst e).affect j f).fault ∧
      ∀ k, ((s.affect j f).affect inst e).traceOf k = ((s.affect inst e).affect j f).traceOf k := by
  refine ⟨?_, Bool.or_right_comm _ _ _, fun k => ?_⟩
  · obtain ⟨a, -, -⟩ := e
    obtain ⟨b, -, -⟩ := f
    cases a <;> cases b
    case some.some x y => exact List.set_comm y x fun hn => h (BitVec.eq_of_toNat_eq hn.symm)
    all_goals rfl
  · simp only [State.traceOf_affect, List.append_assoc]
    by_cases hk : inst = k
    · rw [if_neg fun hj => h (hk.trans hj.symm), List.append_nil, List.nil_append]
    · rw [if_neg hk, List.append_nil, List.nil_append]

end

/-- Settles O16: each step is an effect through the instance it names, and reads nothing that the other one writes. -/
theorem instancesAreIsolated : Obligations.InstancesAreIsolated := by
  unfold Obligations.InstancesAreIsolated
  refine ⟨fun s t slot inst hslot hrun => ?_, fun s t i inst hi hrun => ?_, fun s t u a b i j ha hb hij hrun hrun' => ?_⟩
  · obtain ⟨effect, heffect⟩ := runSlot_eq_next_iff hslot
    obtain ⟨e, -, rfl⟩ := Option.map_eq_some_iff.mp ((heffect s t).mp hrun)
    exact s.affect_isolated inst e
  · obtain ⟨e, rfl⟩ := exec_eq_affect hi hrun
    exact s.affect_isolated inst e
  · obtain ⟨effectA, hA⟩ := runSlot_eq_next_iff ha
    obtain ⟨effectB, hB⟩ := runSlot_eq_next_iff hb
    obtain ⟨e, he, rfl⟩ := Option.map_eq_some_iff.mp ((hA s t).mp hrun)
    obtain ⟨f, hf, rfl⟩ := Option.map_eq_some_iff.mp ((hB _ u).mp hrun')
    rw [State.ctrl?_affect_ne s hij.symm] at hf
    have hB' : runSlot b s = .next (s.affect j f) := (hB _ _).mpr (Option.map_eq_some_iff.mpr ⟨f, hf, rfl⟩)
    have hA' : runSlot a (s.affect j f) = .next ((s.affect j f).affect i e) := by
      refine (hA _ _).mpr (Option.map_eq_some_iff.mpr ⟨e, ?_, rfl⟩)
      rw [State.ctrl?_affect_ne s hij]
      exact he
    obtain ⟨hctrls, hfault, htrace⟩ := s.affect_comm hij e f
    exact ⟨_, _, hB', hA', rfl, hctrls, hfault, rfl, htrace⟩

/-! ### One response per command (60_exceptions.md R134) -/

/-- A local result that, unless it is refused, emits exactly one response, with this op. -/
def LocalResult.Responds (op : OpCode) : LocalResult → Prop
  | .done _ evs => ∃ st, evs.filter Event.isResponse = [.resp op st]
  | .fatal => False
  | .refused _ => True

/-- The command is held in the instance as it stands afterwards: a poll (44_datapath.md R118) or a dequeue (45_channel.md R125). -/
def Controller.HoldsCommand (y : Controller) : Instr → Prop
  | .pollRx .. => y.poll ≠ none
  | .chanDeq _ => y.rxWait = true
  | _ => False

/-- A local result that emits nothing because its command is held. -/
def LocalResult.Holds (i : Instr) : LocalResult → Prop
  | .done y evs => evs = [] ∧ y.HoldsCommand i
  | .fatal | .refused _ => False

section
variable (p : Params) (x : Controller)

theorem Controller.raise_responds (op : OpCode) (st : Status) : (x.raise op st).Responds op := ⟨st, rfl⟩

theorem Controller.initialise_responds (bt : BtRegs) (action : BitVec 8) (m : Reasons) :
    (x.initialise p bt action m).Responds 0x1 := by
  unfold Controller.initialise
  split
  · exact x.raise_responds _ _
  all_goals
    dsimp only
    split
    · split <;> exact ⟨_, rfl⟩
    · exact ⟨_, rfl⟩

theorem Controller.addFilter_responds (kind action : BitVec 8) (id1 id2 : BitVec 16) :
    (x.addFilter p kind action id1 id2).Responds 0x2 := by
  unfold Controller.addFilter
  split
  · exact x.raise_responds _ _
  · exact x.raise_responds _ _
  · split
    · exact x.raise_responds _ _
    · split <;> exact ⟨_, rfl⟩

theorem Controller.startUp_responds : x.startUp.Responds 0x3 := by
  unfold Controller.startUp
  split <;> exact ⟨_, rfl⟩

theorem Controller.submit_responds (id : BitVec 16) (length : BitVec 8) (data : BitVec 64) :
    (x.submit p id length data).Responds 0x4 := by
  unfold Controller.submit
  split
  · exact x.raise_responds _ _
  · split
    · exact x.raise_responds _ _
    · split <;> exact ⟨_, rfl⟩

/-- The end of a held poll is no response of STOP's. -/
theorem Controller.shutDown_responds : (x.shutDown p).Responds 0x5 := by
  unfold Controller.shutDown
  split
  · exact x.raise_responds _ _
  · exact x.raise_responds _ _
  · by_cases hpoll : x.poll = none
    · rw [if_pos hpoll]
      exact ⟨_, rfl⟩
    · rw [if_neg hpoll]
      exact ⟨_, rfl⟩

theorem Controller.registerRx_responds (queueId : BitVec 8) (handler : Handler) :
    (x.registerRx queueId handler).Responds 0x6 := by
  unfold Controller.registerRx
  split <;> exact ⟨_, rfl⟩

/-- An extraction emits no response. -/
theorem Controller.extractOne_no_response (q : QueueId) : (x.extractOne p q).2.filter Event.isResponse = [] := by
  rw [Controller.extractOne_events, Controller.rxEvents]
  split <;> rfl

theorem Controller.pollReceive_responds (inst : InstId) (queueId : BitVec 8) (timeout : BitVec 32) :
    (x.pollReceive p queueId timeout).Responds 0x9 ∨
      (x.pollReceive p queueId timeout).Holds (.pollRx inst queueId timeout) := by
  unfold Controller.pollReceive
  split
  · exact .inl (x.raise_responds _ _)
  split
  · exact .inl (x.raise_responds _ _)
  split
  · exact .inl (x.raise_responds _ _)
  split
  · exact .inl trivial
  split
  · refine .inl ⟨.ok, ?_⟩
    rw [List.filter_append, Controller.extractOne_no_response]
    rfl
  split
  · exact .inl (x.raise_responds _ _)
  · exact .inr ⟨rfl, Option.some_ne_none _⟩

theorem Controller.dequeue_responds (inst : InstId) : x.dequeue.Responds 0xF ∨ x.dequeue.Holds (.chanDeq inst) := by
  cases hwait : x.rxWait with
  | true =>
    rw [Controller.dequeue_of_waiting hwait]
    exact .inl trivial
  | false =>
    rw [Controller.dequeue_of_not_waiting hwait]
    cases hchan : x.chan with
    | nil =>
      rw [Controller.takeOldest_of_nil hchan]
      exact .inr ⟨rfl, rfl⟩
    | cons c rest =>
      rw [Controller.takeOldest_of_cons hchan]
      exact .inl ⟨.ok, rfl⟩

/-- A host command on a known instance responds once or is held. -/
theorem localBody_responds {i : Instr} (hhost : i.isHostCommand = true) :
    (localBody p i x).Responds i.opcode ∨ (localBody p i x).Holds i := by
  cases i with
  | init => exact .inl (x.initialise_responds p _ _ _)
  | addFilter => exact .inl (x.addFilter_responds p _ _ _ _)
  | start => exact .inl x.startUp_responds
  | send => exact .inl (x.submit_responds p _ _ _)
  | stop => exact .inl (x.shutDown_responds p)
  | regRxCb => exact .inl (x.registerRx_responds _ _)
  | regErrCb => exact .inl ⟨.ok, rfl⟩
  | regHpCb => exact .inl ⟨.ok, rfl⟩
  | pollRx inst => exact x.pollReceive_responds p inst _ _
  | chanDeq inst => exact x.dequeue_responds inst
  | _ => cases hhost

end

theorem Controller.HoldsCommand.cases {i : Instr} {inst : InstId} {y : Controller} (h : y.HoldsCommand i)
    (hi : i.inst? = some inst) :
    (∃ q n, i = .pollRx inst q n ∧ y.poll ≠ none) ∨ (i = .chanDeq inst ∧ y.rxWait = true) := by
  cases i with
  | pollRx =>
    cases hi
    exact .inl ⟨_, _, rfl, h⟩
  | chanDeq =>
    cases hi
    exact .inr ⟨rfl, h⟩
  | _ => cases h

/-- Settles O17: an unknown instance is answered once, a known one by what the command's body answers. -/
theorem oneResponsePerCommand : Obligations.OneResponsePerCommand := by
  unfold Obligations.OneResponsePerCommand
  intro s t i inst hhost hi hrun
  rcases exec_next_cases hi hrun with ⟨-, -, rfl⟩ | ⟨x, hx, hbody⟩
  · exact ⟨[.resp i.opcode .error], rfl, .inl ⟨.error, rfl⟩⟩
  · have hresponds := localBody_responds s.params x hhost
    rcases hbody with ⟨y, evs, hdone, rfl⟩ | ⟨hfatal, -⟩
    · rw [hdone] at hresponds
      refine ⟨evs, rfl, hresponds.imp id fun ⟨hnone, hheld⟩ => ⟨hnone, y, State.ctrl?_commit hx y evs, hheld.cases hi⟩⟩
    · rw [hfatal] at hresponds
      exact hresponds.elim False.elim False.elim

/-! ### BUS_STATUS (60_exceptions.md R138) -/

/-- Settles O58. -/
theorem busStatusLatches : Obligations.BusStatusLatches := by
  unfold Obligations.BusStatusLatches
  intro s inst x m hx hbits hne
  have hformat : busStatusFormat m = true := by simpa [busStatusFormat] using And.intro hbits hne
  rw [exec_known rfl hx, localBody, if_pos hformat]
  refine ⟨fun hrun => ?_, fun hrun => ?_⟩
  · rw [if_pos hrun, State.settle_done]
    rfl
  · rw [if_neg hrun, State.settle_unchanged hx]

/-! ### IRQ_DISPATCH (60_exceptions.md R139) -/

/-- The queue from which a block of the dispatcher extracts, if it does. -/
def blockQueue? : ReasonClass → Option QueueId
  | .rxq0 => some .q0
  | .rxq1 => some .q1
  | .err | .hp => none

theorem blockQueue?_eq_some {c : ReasonClass} {q : QueueId} (h : blockQueue? c = some q) : c = q.reasonClass := by
  cases c <;> cases h <;> rfl

/-- The latched reasons that a block serves. -/
def blockMask : ReasonClass → Reasons
  | .rxq0 | .rxq1 => 0
  | .err => errMask
  | .hp => hpMask

/-- The latched reasons that the blocks serve. -/
def blocksMask (cs : List ReasonClass) : Reasons := cs.foldr (blockMask · ||| ·) 0

/-- What each order of the four blocks makes of the queues and of the latched reasons. -/
theorem blocks_of_perm {cs : List ReasonClass} (h : cs.Perm [.rxq0, .rxq1, .err, .hp]) :
    cs.filterMap blockQueue? = (if cs.idxOf .rxq0 < cs.idxOf .rxq1 then [.q0, .q1] else [.q1, .q0]) ∧
      blocksMask cs = 0x3C := by
  have hall : ∀ cs ∈ List.permutations' [ReasonClass.rxq0, .rxq1, .err, .hp],
      cs.filterMap blockQueue? = (if cs.idxOf .rxq0 < cs.idxOf .rxq1 then [.q0, .q1] else [.q1, .q0]) ∧
        blocksMask cs = 0x3C := by decide
  exact hall cs (List.mem_permutations'.mpr h)

/-- A receive reason is given in a mask exactly when the queue's bit is set (30_encoding.md R56). -/
theorem and_reason_ne_zero_iff (m : Reasons) (q : QueueId) : m &&& q.reason ≠ 0 ↔ m.getLsbD q.code = true := by
  have hbit : BitVec.twoPow 6 q.code ≠ 0#6 := by cases q <;> decide
  rw [QueueId.reason_eq_twoPow, BitVec.and_twoPow]
  cases m.getLsbD q.code <;> simp [hbit]

section
variable (p : Params) (m : Reasons) (x : Controller)

/-- One extraction from a queue where its reason is given. -/
def Controller.extractGiven (q : QueueId) : Controller := if m.getLsbD q.code then (x.extractOne p q).1 else x

theorem Controller.extractBoth_eq (q r : QueueId) :
    x.extractBoth p m q r = [q, r].foldl (Controller.extractGiven p m) x := rfl

theorem Controller.setRxq_rxq (q : QueueId) : x.setRxq (x.rxq q) q = x := by
  cases q <;> rfl

/-- An extraction where the reason is given touches its queue, and the channel with its counter for `H_CHAN`. -/
theorem Controller.extractGiven_shape (q : QueueId) :
    ∃ (ch : List Elem) (n : BitVec 32),
      x.extractGiven p m q = { x.setRxq (if m.getLsbD q.code then (x.rxq q).tail else x.rxq q) q with
        chan := ch, chanDrops := n } ∧
      (x.cbRx q ≠ some hChan → ch = x.chan ∧ n = x.chanDrops) := by
  unfold Controller.extractGiven
  split
  · obtain ⟨ch, n, he, -, -, hkeep⟩ := Controller.extractOne_shape p x q
    exact ⟨ch, n, by rw [he], hkeep⟩
  · exact ⟨x.chan, x.chanDrops, by rw [Controller.setRxq_rxq], fun _ => ⟨rfl, rfl⟩⟩

/-- What a dispatcher call makes of an instance before it clears the latched reasons, and when it leaves the channel alone. -/
theorem Controller.extractBoth_shape {q r : QueueId} (hqr : q ≠ r) :
    ∃ (ch : List Elem) (n : BitVec 32),
      x.extractBoth p m q r = { x with
        rxq0 := if m.getLsbD 0 then x.rxq0.tail else x.rxq0,
        rxq1 := if m.getLsbD 1 then x.rxq1.tail else x.rxq1, chan := ch, chanDrops := n } ∧
      (x.cbRx0 ≠ some 1 → x.cbRx1 ≠ some 1 → ch = x.chan ∧ n = x.chanDrops) := by
  obtain ⟨ch, n, he, hkeep⟩ := x.extractGiven_shape p m q
  obtain ⟨ch', n', he', hkeep'⟩ := (x.extractGiven p m q).extractGiven_shape p m r
  refine ⟨ch', n', ?_, fun h0 h1 => ?_⟩
  · rw [Controller.extractBoth_eq, List.foldl_cons, List.foldl_cons, List.foldl_nil, he', he]
    cases q <;> cases r
    case q0.q1 | q1.q0 => rfl
    all_goals exact absurd rfl hqr
  · have hcb : ∀ q, x.cbRx q ≠ some hChan := fun q => by cases q; exacts [h0, h1]
    obtain ⟨rfl, rfl⟩ := hkeep (hcb q)
    rw [he] at hkeep'
    exact hkeep' (by cases q <;> exact hcb r)

/-- Clearing latched reasons first makes no difference to an extraction. -/
theorem Controller.extractGiven_unlatch (b : Reasons) (q : QueueId) :
    (x.unlatch b).extractGiven p m q = (x.extractGiven p m q).unlatch b := by
  unfold Controller.extractGiven
  split
  · obtain ⟨ch, n, he, -⟩ := Controller.extractOne_shape p x q
    obtain ⟨ch', n', he', -⟩ := Controller.extractOne_shape p (x.unlatch b) q
    obtain ⟨hchan, hdrops⟩ := Controller.extractOne_chan_congr (p := p) (x := x.unlatch b) (y := x) (q := q)
      rfl rfl (by cases q <;> rfl) (by cases q <;> rfl)
    rw [he, he'] at hchan hdrops
    cases hchan
    cases hdrops
    rw [he, he']
    cases q <;> rfl
  · rfl

theorem Controller.foldl_extractGiven_unlatch (b : Reasons) (qs : List QueueId) : ∀ x : Controller,
    qs.foldl (Controller.extractGiven p m) (x.unlatch b) = (qs.foldl (Controller.extractGiven p m) x).unlatch b := by
  induction qs with
  | nil => exact fun _ => rfl
  | cons q qs ih =>
    intro x
    rw [List.foldl_cons, List.foldl_cons, Controller.extractGiven_unlatch, ih]

theorem Controller.unlatch_zero : x.unlatch 0 = x := by
  have hkeep : x.irqPending &&& ~~~0#6 = x.irqPending := by rw [BitVec.not_zero, BitVec.and_allOnes]
  exact congrArg (fun b => { x with irqPending := b }) hkeep

theorem Controller.unlatch_unlatch (a b : Reasons) : (x.unlatch a).unlatch b = x.unlatch (a ||| b) := by
  simp only [Controller.unlatch, BitVec.not_or, BitVec.and_assoc]

/-! What one block does, and that it changes no other block's events. -/

theorem Controller.blockEvents_extract (q : QueueId) :
    x.blockEvents p m q.reasonClass = if m.getLsbD q.code then (x.extractOne p q).2 else [] := by
  cases q <;> rfl

section
variable {m} {q : QueueId}

theorem Controller.extractGiven_of_given (h : m.getLsbD q.code = true) :
    (x.extractGiven p m q, x.blockEvents p m q.reasonClass) = x.extractOne p q := by
  rw [Controller.extractGiven, Controller.blockEvents_extract, if_pos h, if_pos h]

theorem Controller.extractGiven_of_not_given (h : m.getLsbD q.code = false) :
    (x.extractGiven p m q, x.blockEvents p m q.reasonClass) = (x, []) := by
  rw [Controller.extractGiven, Controller.blockEvents_extract, h]
  rfl

end

theorem Controller.dispatchBlock_extract (q : QueueId) :
    x.dispatchBlock p m q.reasonClass = (x.extractGiven p m q, x.blockEvents p m q.reasonClass) := by
  have hblock : x.dispatchBlock p m q.reasonClass = if m &&& q.reason ≠ 0 then x.extractOne p q else (x, []) := by
    cases q <;> rfl
  rw [hblock]
  cases h : m.getLsbD q.code with
  | true => rw [if_pos ((and_reason_ne_zero_iff m q).mpr h), Controller.extractGiven_of_given p x h]
  | false =>
    rw [if_neg (mt (and_reason_ne_zero_iff m q).mp (Bool.eq_false_iff.mp h)), Controller.extractGiven_of_not_given p x h]

/-- The high-priority reason is one bit. -/
theorem and_hpMask_of_ne_zero : ∀ {m : Reasons}, m &&& hpMask ≠ 0 → m &&& hpMask = hpMask := by
  decide

theorem Controller.blockEvents_err :
    x.blockEvents p m .err = if m &&& errMask ≠ 0 then x.cbErr.toList.map (.errCb · m) else [] := rfl

theorem Controller.blockEvents_hp :
    x.blockEvents p m .hp = if m &&& hpMask ≠ 0 then x.cbHp.toList.map (.hpCb · x.hpStatus) else [] := rfl

/-- A block of latched reasons clears what is given of them and calls its callback. -/
theorem Controller.dispatchBlock_latched {c : ReasonClass} (hc : blockQueue? c = none) :
    x.dispatchBlock p m c = (x.unlatch (m &&& blockMask c), x.blockEvents p m c) := by
  cases c with
  | rxq0 | rxq1 => cases hc
  | err =>
    rw [blockMask, Controller.dispatchBlock, Controller.blockEvents_err]
    by_cases h : m &&& errMask = 0
    · rw [if_neg (not_not.mpr h), if_neg (not_not.mpr h), h, Controller.unlatch_zero]
    · rw [if_pos h, if_pos h]
      cases x.cbErr <;> rfl
  | hp =>
    rw [blockMask, Controller.dispatchBlock, Controller.blockEvents_hp]
    by_cases h : m &&& hpMask = 0
    · rw [if_neg (not_not.mpr h), if_neg (not_not.mpr h), h, Controller.unlatch_zero]
    · rw [if_pos h, if_pos h, and_hpMask_of_ne_zero h]
      cases x.cbHp <;> rfl

theorem Controller.blockEvents_extractGiven {q : QueueId} {d : ReasonClass} (hd : d ≠ q.reasonClass) :
    (x.extractGiven p m q).blockEvents p m d = x.blockEvents p m d := by
  obtain ⟨ch, n, he, -⟩ := x.extractGiven_shape p m q
  rw [he]
  cases q <;> cases d
  case q0.rxq0 | q1.rxq1 => exact absurd rfl hd
  all_goals
    simp only [Controller.blockEvents, Controller.extractOne_events]
    rfl

theorem Controller.blockEvents_unlatch (b : Reasons) (d : ReasonClass) :
    (x.unlatch b).blockEvents p m d = x.blockEvents p m d := by
  cases d <;>
  · simp only [Controller.blockEvents, Controller.extractOne_events]
    rfl

/-- No block changes the events of another block. -/
theorem Controller.blockEvents_dispatchBlock {c d : ReasonClass} (hd : d ≠ c) :
    (x.dispatchBlock p m c).1.blockEvents p m d = x.blockEvents p m d := by
  cases hc : blockQueue? c with
  | some q =>
    obtain rfl := blockQueue?_eq_some hc
    rw [Controller.dispatchBlock_extract, Controller.blockEvents_extractGiven p m x hd]
  | none => rw [Controller.dispatchBlock_latched p m x hc, Controller.blockEvents_unlatch]

/-- What blocks in any order, each at most once, do: the extractions in the order of their blocks, the clearing, and the events of
each block as on entry. -/
theorem Controller.dispatchBlocks_eq {cs : List ReasonClass} (hnodup : cs.Nodup) : ∀ x : Controller,
    Controller.dispatchBlocks p m cs x =
      (((cs.filterMap blockQueue?).foldl (Controller.extractGiven p m) x).unlatch (m &&& blocksMask cs),
        cs.flatMap (x.blockEvents p m)) := by
  induction cs with
  | nil =>
    intro x
    have hmask : m &&& blocksMask [] = 0 := BitVec.and_zero
    rw [hmask, Controller.unlatch_zero]
    rfl
  | cons c cs ih =>
    intro x
    obtain ⟨hnot, hnodup⟩ := List.nodup_cons.mp hnodup
    have hevents : cs.flatMap ((x.dispatchBlock p m c).1.blockEvents p m) = cs.flatMap (x.blockEvents p m) :=
      List.flatMap_congr fun d hd => x.blockEvents_dispatchBlock p m (ne_of_mem_of_not_mem hd hnot)
    simp only [Controller.dispatchBlocks, ih hnodup, hevents]
    cases hc : blockQueue? c with
    | some q =>
      obtain rfl := blockQueue?_eq_some hc
      have hmask : blocksMask (q.reasonClass :: cs) = blocksMask cs := by
        cases q <;> exact BitVec.zero_or
      rw [Controller.dispatchBlock_extract, List.filterMap_cons_some hc, hmask]
      rfl
    | none =>
      have hmask : m &&& blocksMask (c :: cs) = m &&& blockMask c ||| m &&& blocksMask cs := BitVec.and_or_distrib_left
      rw [Controller.dispatchBlock_latched p m x hc, List.filterMap_cons_none hc, hmask,
        Controller.foldl_extractGiven_unlatch, Controller.unlatch_unlatch]
      rfl

end

/-- A dispatcher call that is enabled, in any `DISPATCH_ORDER`. -/
theorem exec_irqDispatch_of_enabled {s : State} {inst : InstId} {x : Controller} (hx : s.ctrl? inst = some x)
    (horder : s.params.dispatchOrder.Perm [.rxq0, .rxq1, .err, .hp]) (hrun : x.cstate = .running) (hlines : x.irqLines ≠ 0) :
    exec (.irqDispatch inst x.irqLines) s = .next (s.commit inst
      (((s.params.dispatchOrder.filterMap blockQueue?).foldl (Controller.extractGiven s.params x.irqLines) x).unlatch
        (x.irqLines &&& 0x3C))
      (s.params.dispatchOrder.flatMap (x.blockEvents s.params x.irqLines))) := by
  rw [exec_known rfl hx, localBody, if_pos ((x.irqEnabled_iff _).mpr ⟨hrun, hlines, rfl⟩), State.settle_done,
    Controller.dispatch, Controller.dispatchBlocks_eq _ _ (horder.nodup_iff.mpr (by decide)), (blocks_of_perm horder).2]

/-- Clearing latched reasons after the extractions, which leave `irq_pending` as it was. -/
theorem Controller.extractBoth_unlatch (p : Params) (m b : Reasons) (x : Controller) {q r : QueueId} (hqr : q ≠ r) :
    (x.extractBoth p m q r).unlatch b = { x.extractBoth p m q r with irqPending := x.irqPending &&& ~~~b } := by
  obtain ⟨ch, n, he, -⟩ := x.extractBoth_shape p m hqr
  rw [he]
  rfl

/-- Settles O60: the order of the blocks decides which queue is read first, and nothing else but the order of the events. -/
theorem dispatchInEveryOrder : Obligations.DispatchInEveryOrder := by
  unfold Obligations.DispatchInEveryOrder
  intro s inst x y hx horder hrun hlines hy
  have hboth : ∃ q r, q ≠ r ∧ y = x.extractBoth s.params x.irqLines q r ∧
      s.params.dispatchOrder.filterMap blockQueue? = [q, r] := by
    rw [hy, (blocks_of_perm horder).1]
    split
    · exact ⟨.q0, .q1, nofun, rfl, rfl⟩
    · exact ⟨.q1, .q0, nofun, rfl, rfl⟩
  obtain ⟨q, r, hqr, rfl, hqueues⟩ := hboth
  obtain ⟨ch, n, he, hkeep⟩ := x.extractBoth_shape s.params x.irqLines hqr
  refine ⟨?_, ?_, horder.flatMap_right _, fun h0 h1 => ?_⟩
  · rw [exec_irqDispatch_of_enabled hx horder hrun hlines, hqueues, ← Controller.extractBoth_eq,
      Controller.extractBoth_unlatch _ _ _ _ hqr]
  · rw [he]
  · rw [he]
    exact hkeep h0 h1

/-! The events of a callback that is called where its reason is given and it is registered. -/

theorem callbackEvents_of_given {given : Prop} [Decidable given] {cb : Option Handler} {h : Handler} {f : Handler → Event}
    (hgiven : given) (hcb : cb = some h) : (if given then cb.toList.map f else []) = [f h] := by
  rw [if_pos hgiven, hcb]
  rfl

theorem callbackEvents_of_none {given : Prop} [Decidable given] {cb : Option Handler} {f : Handler → Event}
    (hoff : ¬ given ∨ cb = none) : (if given then cb.toList.map f else []) = [] := by
  rcases hoff with hnot | hcb
  · exact if_neg hnot
  · rw [hcb]
    exact ite_self _

/-- Settles O59: in the default order the two extractions are the first two blocks. -/
theorem dispatchServesReasons : Obligations.DispatchServesReasons := by
  unfold Obligations.DispatchServesReasons
  intro s inst x m hx horder
  refine ⟨fun hoff => ?_, ?_⟩
  · have hdisabled : ¬ x.irqEnabled m = true := fun hen => by
      obtain ⟨hrun, hlines, hm⟩ := (x.irqEnabled_iff m).mp hen
      exact hoff.elim (absurd hrun) (Or.elim · hlines (absurd hm))
    rw [exec_known rfl hx, localBody, if_neg hdisabled, State.settle_unchanged hx]
  · rintro hrun hlines rfl
    have hperm : s.params.dispatchOrder.Perm [.rxq0, .rxq1, .err, .hp] := .of_eq horder
    obtain ⟨hexec, -⟩ := dispatchInEveryOrder s inst x _ hx hperm hrun hlines rfl
    rw [horder, if_pos (by decide)] at hexec
    generalize x.irqLines = m at *
    refine ⟨_, _, x.blockEvents s.params m .err, x.blockEvents s.params m .hp,
      x.extractGiven_of_given s.params (q := .q0), x.extractGiven_of_not_given s.params (q := .q0),
      Controller.extractGiven_of_given s.params _ (q := .q1), Controller.extractGiven_of_not_given s.params _ (q := .q1),
      fun h hm hcb => ?_, fun hoff => ?_, fun h hm hcb => ?_, fun hoff => ?_, ?_⟩
    · exact (x.blockEvents_err s.params m).trans (callbackEvents_of_given hm hcb)
    · exact (x.blockEvents_err s.params m).trans (callbackEvents_of_none (hoff.imp_left not_not.mpr))
    · exact (x.blockEvents_hp s.params m).trans (callbackEvents_of_given hm hcb)
    · exact (x.blockEvents_hp s.params m).trans (callbackEvents_of_none (hoff.imp_left not_not.mpr))
    · have hevents : (x.extractGiven s.params m .q0).blockEvents s.params m .rxq1 = x.blockEvents s.params m .rxq1 :=
        x.blockEvents_extractGiven s.params m (q := .q0) nofun
      rw [hexec, QueueId.reasonClass, QueueId.reasonClass, hevents]
      simp only [List.flatMap_cons, List.flatMap_nil, List.append_nil, List.append_assoc]
      rfl

end Sys2Proof.Machine

/-! PROOFS of the family 70_reset_and_hazards.md: what the block enables and answers after power-on. -/

namespace Sys2Proof.Machine

/-! ### Any state: what a body answers, the host commands that are enabled, a TICK on idle instances -/

section
variable {s : State} {i : Instr} {inst : InstId} {x : Controller} (hi : i.inst? = some inst) (hx : s.ctrl? inst = some x)
include hi hx

/-- A step whose body raises a status answers it and changes nothing else. -/
theorem exec_of_raise {op : OpCode} {st : Status} (hbody : localBody s.params i x = x.raise op st) :
    exec i s = .next (s.emit inst [.resp op st]) := by
  rw [exec_known hi hx, hbody, State.settle_raise hx]

theorem exec_of_done {y : Controller} {evs : List Event} (hbody : localBody s.params i x = .done y evs) :
    exec i s = .next (s.commit inst y evs) := by
  rw [exec_known hi hx, hbody, State.settle_done]

end

/-- Without a fault every host command but CHAN_DEQ is enabled (60_exceptions.md R129). -/
theorem State.enables_of_host {s : State} {i : Instr} (hfault : s.fault = false) (hhost : i.isHostCommand = true)
    (hop : i.opcode ≠ 0xF) : s.enables i = true := by
  cases i with
  | busRx | txXmit | irqDispatch | busStatus | tick => cases hhost
  | chanDeq => exact absurd rfl hop
  | _ => simp [State.enables, hfault]

/-- TICK changes nothing on instances of which none holds a poll (44_datapath.md R120). -/
theorem tickFrom_of_idle (p : Params) (l : List Controller) (hidle : ∀ x ∈ l, x.poll = none) (k : Nat) :
    tickFrom p k l = (l, []) := by
  induction l generalizing k with
  | nil => rfl
  | cons x xs ih =>
    rw [List.forall_mem_cons] at hidle
    rw [tickFrom, Controller.tick_of_idle p hidle.1, ih hidle.2]
    rfl

/-! ### The power-on state (10_state.md R35, 70_reset_and_hazards.md R148) -/

section
variable {p : Params} {n : Nat}

theorem State.powerOn_ctrl? {inst : InstId} (hinst : inst.toNat < n) :
    (State.powerOn p n).ctrl? inst = some (Controller.powerOn p) :=
  List.getElem?_replicate_of_lt hinst

/-- No event but TICK is enabled at power-on. -/
theorem State.powerOn_enables_event {i : Instr} (hevent : i.isHostCommand = false) (htick : i ≠ .tick) :
    (State.powerOn p n).enables i = false := by
  refine Bool.eq_false_iff.mpr fun hen => ?_
  rcases State.powerOn_enables hen with hhost | rfl
  · cases hevent.symm.trans hhost
  · exact htick rfl

/-- The channel of a known instance is empty at power-on, so a CHAN_DEQ is held (45_channel.md R125). -/
theorem State.powerOn_enables_chanDeq {inst : InstId} (hinst : inst.toNat < n) :
    (State.powerOn p n).enables (.chanDeq inst) = false := by
  have hempty : (Controller.powerOn p).chan = [] := rfl
  simp [State.enables, State.powerOn_ctrl? hinst, State.onCtrl_known (State.powerOn_ctrl? hinst), hempty]

theorem State.powerOn_ticked : (State.powerOn p n).ticked = State.powerOn p n := by
  have hidle : ∀ x ∈ (State.powerOn p n).ctrls, x.poll = none := fun x hx => by
    rw [eq_powerOn_of_mem hx]
    rfl
  rw [State.ticked, tickFrom_of_idle _ _ hidle]
  rfl

theorem Controller.powerOn_hwReset : (Controller.powerOn p).hwReset p = Controller.powerOn p := rfl

end

/-- Settles O9: each command meets the uninitialized instance, on which only INIT and the registrations change anything, and no
agent but the host and time has an enabled step. -/
theorem resetStateAnswers : Obligations.ResetStateAnswers := by
  unfold Obligations.ResetStateAnswers
  intro inst hinst
  have hx : State.reset.ctrl? inst = some (Controller.powerOn Params.defaults) := State.powerOn_ctrl? hinst
  have huninit : (Controller.powerOn Params.defaults).cstate = .uninitialized := rfl
  have hstopped : (Controller.powerOn Params.defaults).cstate ≠ .running := nofun
  refine ⟨?addFilter, ?start, ?send, ?stop, ?pollRx,
    fun id dlc d r => State.powerOn_enables_event rfl nofun, State.powerOn_enables_event rfl nofun,
    fun m => State.powerOn_enables_event rfl nofun, fun m => State.powerOn_enables_event rfl nofun,
    State.powerOn_enables_chanDeq hinst, rfl, ?tick, fun i hhost _ hop => State.enables_of_host rfl hhost hop,
    ?regRxCb, ?regErrCb, ?regHpCb, ?init⟩
  case addFilter =>
    intro kind action id1 id2
    rw [exec_addFilter hx, Controller.addFilter_of_uninitialized huninit, State.settle_raise hx]
  case start => exact exec_of_raise rfl hx (Controller.startUp_of_uninitialized huninit)
  case send => exact fun id len d => exec_of_raise rfl hx (Controller.submit_of_not_running hstopped _ id len d)
  case stop => exact exec_of_raise rfl hx (Controller.shutDown_of_uninitialized (p := Params.defaults) huninit)
  case pollRx => exact fun q t => exec_of_raise rfl hx (Controller.pollReceive_of_not_running hstopped _ q t)
  case tick => rw [exec_tick, State.reset, State.powerOn_ticked]
  case regRxCb =>
    have hq : QueueId.ofCode 0 = some .q0 := rfl
    exact fun h => exec_of_done rfl hx (Controller.registerRx_of_queue hq h)
  case regErrCb => exact fun _ => exec_of_done rfl hx rfl
  case regHpCb => exact fun _ => exec_of_done rfl hx rfl
  case init =>
    have hlegal : btLegal Params.defaults (BtRegs.timing ⟨1, 139, 20, 20⟩) = true := btLegal_iff.mpr (by decide)
    have henables : enablesOf 0x03 = 0x07 := rfl
    have haction : DefaultAction.ofCode 2 = some .rejectAll := rfl
    have hbody := Controller.initialise_of_legal (requested := 0x03) hstopped hlegal haction
    rw [Controller.powerOn_hwReset, henables] at hbody
    exact exec_of_done rfl hx hbody

end Sys2Proof.Machine

/-! PROOFS of the family of the test vectors: the step words written out in 95_test_vectors.md section 5. -/

namespace Sys2Proof

/-- A word that a well-formed step encodes to decodes to that step. -/
theorem decode_eq_of_encode_eq {i : Instr} {w : StepWord} (hi : WellFormed i) (hw : encode i = w) : decode w = .ok i :=
  hw ▸ decodeOfEncode i hi

/-- Settles O3: each word is the encoding of the well-formed step written beside it. -/
theorem specWordsDecode : Obligations.SpecWordsDecode := by
  unfold Obligations.SpecWordsDecode
  and_intros
  all_goals exact decode_eq_of_encode_eq (by decide) (by decide)

end Sys2Proof
